-- ==== Sys2Proof/Word.lean ====
section
/-! DEFINITION. Word.lean: the sizes the spec fixes (00_scope.md R5, R7 to R9): bytes, 16-bit segments, 32-bit bus words,
blocks of eight segments, and ten round keys. -/

namespace Sys2Proof

/-- One byte lane of a 32-bit register (20_memory.md R48). -/
abbrev Byte := BitVec 8

/-- One 16-bit segment of a block or of a round key (R5: `W = 16`). -/
abbrev Seg := BitVec 16

/-- One 32-bit register or bus word (R40, R42). -/
abbrev Word := BitVec 32

/-- A block: the ordered sequence `B[0], …, B[7]` of eight segments, 128 bits (R5, R8). -/
abbrev Block := Vector Seg 8

/-- The ten round keys `RK[0..9]`, each shaped like a block (R5, R24). -/
abbrev RoundKeys := Vector Block 10

/-- The block whose 128 bits are all zero. -/
def Block.zero : Block := #v[0, 0, 0, 0, 0, 0, 0, 0]

/-- Ten round keys whose 1280 bits are all zero. -/
def RoundKeys.zero : RoundKeys :=
  #v[Block.zero, Block.zero, Block.zero, Block.zero, Block.zero,
     Block.zero, Block.zero, Block.zero, Block.zero, Block.zero]

end Sys2Proof
end

