-- ==== Sys2Proof/Syntax.lean ====
section
/-! DEFINITION. Syntax.lean: the 13 commands of spec/opcode_table.json (30_encoding.md R62), one constructor each. -/

namespace Sys2Proof

/-- A command of the CORE. The eight single-layer and single-round commands carry the `RND` field of format CR
(R60, R61); every other operand of every command is implicit (R61, R62). -/
inductive Instr where
  /-- `NOP` (R163) -/
  | nop
  /-- `EXPAND_KEY` (R82) -/
  | expandKey
  /-- `ENCRYPT` (R148) -/
  | encrypt
  /-- `DECRYPT` (R149) -/
  | decrypt
  /-- `PERM r` (R100) -/
  | perm (rnd : BitVec 4)
  /-- `INV_PERM r` (R101) -/
  | invPerm (rnd : BitVec 4)
  /-- `MIX r` (R116) -/
  | mix (rnd : BitVec 4)
  /-- `INV_MIX r` (R117) -/
  | invMix (rnd : BitVec 4)
  /-- `DIFF r` (R133) -/
  | diff (rnd : BitVec 4)
  /-- `INV_DIFF r` (R134) -/
  | invDiff (rnd : BitVec 4)
  /-- `ROUND_FWD r` (R146) -/
  | roundFwd (rnd : BitVec 4)
  /-- `ROUND_INV r` (R147) -/
  | roundInv (rnd : BitVec 4)
  /-- `ZEROIZE` (R162) -/
  | zeroize
  deriving DecidableEq, Repr

/-- The `RND` field of a format CR command, none for format C0 (R60, R61). -/
def Instr.rnd? : Instr → Option (BitVec 4)
  | .nop => none
  | .expandKey => none
  | .encrypt => none
  | .decrypt => none
  | .perm r => some r
  | .invPerm r => some r
  | .mix r => some r
  | .invMix r => some r
  | .diff r => some r
  | .invDiff r => some r
  | .roundFwd r => some r
  | .roundInv r => some r
  | .zeroize => none

end Sys2Proof
end

