-- ==== Sys2Proof/WellFormed.lean ====
section
/-! DEFINITION. WellFormed.lean: the one check the spec makes on a command's operand: its round index names a round, 0 to 9
(30_encoding.md R61, R63 "extra condition"). -/

namespace Sys2Proof

/-- `RND` names one of the ten rounds (R61: "only `0..9` name a round"). -/
abbrev roundOk (r : BitVec 4) : Prop := r.toNat ≤ 9

/-- A well-formed command: its round index, if it has one, is at most 9 (R61, R63). -/
def Instr.wf (i : Instr) : Bool :=
  match i.rnd? with
  | none => true
  | some r => decide (roundOk r)

end Sys2Proof
end

