-- ==== Sys2Proof/Decode.lean ====
section
/-! DEFINITION. Decode.lean: decoding of command words, total over all 2^32 words (30_encoding.md R64), over byte lists
(20_memory.md R48), the encoder beside it (R60, R63), and the match/mask table of R63 as data. -/

namespace Sys2Proof

/-- The fields of a command word (R60). -/
def fieldOpc (w : Word) : BitVec 4 := w.extractLsb' 0 4

/-- `RND`, bits 11:8 of a format CR word (R60). -/
def fieldRnd (w : Word) : BitVec 4 := w.extractLsb' 8 4

/-- `RES`, bits 31:4 of a format C0 word, must be 0 (R60). -/
def fieldRes (w : Word) : BitVec 28 := w.extractLsb' 4 28

/-- `RES_HI`, bits 31:12 of a format CR word, must be 0 (R60). -/
def fieldResHi (w : Word) : BitVec 20 := w.extractLsb' 12 20

/-- `RES_LO`, bits 7:4 of a format CR word, must be 0 (R60). -/
def fieldResLo (w : Word) : BitVec 4 := w.extractLsb' 4 4

/-- What `decode(w)` answers (R64): a command, or one of the two rejections, by name. -/
inductive Decoded where
  | command (i : Instr)
  /-- `ILLEGAL_CMD`: a reserved opcode, or a nonzero must-be-0 field -/
  | illegalCmd
  /-- `BAD_ROUND`: a format CR word with `RND` in 10 to 15 -/
  | badRound
  deriving DecidableEq, Repr

/-- The commands of format C0 by opcode (R60, R62). -/
def formatC0 (opc : BitVec 4) : Option Instr :=
  match opc.toNat with
  | 0x0 => some .nop
  | 0x1 => some .expandKey
  | 0x2 => some .encrypt
  | 0x3 => some .decrypt
  | 0xC => some .zeroize
  | _ => none

/-- The commands of format CR by opcode, applied to the round field (R60, R62). -/
def formatCR (opc rnd : BitVec 4) : Option Instr :=
  match opc.toNat with
  | 0x4 => some (.perm rnd)
  | 0x5 => some (.invPerm rnd)
  | 0x6 => some (.mix rnd)
  | 0x7 => some (.invMix rnd)
  | 0x8 => some (.diff rnd)
  | 0x9 => some (.invDiff rnd)
  | 0xA => some (.roundFwd rnd)
  | 0xB => some (.roundInv rnd)
  | _ => none

/-- `decode(w)` of R64, total over all 32-bit words. -/
def decode (w : Word) : Decoded :=
  match formatC0 (fieldOpc w) with
  | some i => if fieldRes w = 0 then .command i else .illegalCmd
  | none =>
    match formatCR (fieldOpc w) (fieldRnd w) with
    | some i =>
      if fieldResHi w = 0 ∧ fieldResLo w = 0 then
        if 9 < (fieldRnd w).toNat then .badRound else .command i
      else .illegalCmd
    | none => .illegalCmd

/-- The opcode of each command (R62); with `Instr.rnd?` it is the 4 + 4 bits PENDING holds (10_state.md R20, R33). -/
def Instr.opcode : Instr → BitVec 4
  | .nop => 0x0
  | .expandKey => 0x1
  | .encrypt => 0x2
  | .decrypt => 0x3
  | .perm _ => 0x4
  | .invPerm _ => 0x5
  | .mix _ => 0x6
  | .invMix _ => 0x7
  | .diff _ => 0x8
  | .invDiff _ => 0x9
  | .roundFwd _ => 0xA
  | .roundInv _ => 0xB
  | .zeroize => 0xC

/-- The command word: `OPC` alone for format C0, `(r << 8) OR OPC` for format CR (R60, R63). -/
def encode (i : Instr) : Word :=
  match i.rnd? with
  | none => i.opcode.setWidth 32
  | some r => (r.setWidth 32 <<< 8) ||| i.opcode.setWidth 32

/-- The byte of a 32-bit register at byte lane `k`: bits `8k+7 : 8k`, little-endian (20_memory.md R48). -/
def byteLane (w : Word) (k : Nat) : Byte := w.extractLsb' (8 * k) 8

/-- The four bytes of a word in address order (R48). -/
def wordBytes (w : Word) : List Byte := [byteLane w 0, byteLane w 1, byteLane w 2, byteLane w 3]

/-- The 32-bit word a platform forms from four bytes in address order (R48). -/
def wordOfBytes (b0 b1 b2 b3 : Byte) : Word := b3 ++ b2 ++ b1 ++ b0

/-- What decoding a byte list answers: the first command word decoded and the bytes after it, or, by name, too few bytes:
every command is exactly one 32-bit word (R60, R65). -/
inductive ByteDecoded where
  | word (d : Decoded) (rest : List Byte)
  | tooShort
  deriving DecidableEq, Repr

/-- Decoding of any byte list (R48, R64, R65). -/
def decodeBytes : List Byte → ByteDecoded
  | b0 :: b1 :: b2 :: b3 :: rest => .word (decode (wordOfBytes b0 b1 b2 b3)) rest
  | _ => .tooShort

/-- The 32-bit word of an opcode-table instruction whose low `nbits` bits are `w`, the bits above them zero. -/
def tableWord (nbits w : Nat) : Word := BitVec.ofNat 32 (w % 2 ^ nbits)

/-- The instruction the decoder reads from an instruction whose bits are `w`, numbered as spec/opcode_table.json numbers
them; its bytes are laid out as R48 lays them out. -/
def decodeTableWord (nbits w : Nat) : Option Instr :=
  match decodeBytes (wordBytes (tableWord nbits w)) with
  | .word (.command i) _ => some i
  | _ => none

/-- One row of the match/mask table of R63; `checkRnd` is the extra
condition `w[11:8] <= 9`. -/
structure OpRow where
  pattern : Word
  mask : Word
  checkRnd : Bool
  deriving DecidableEq, Repr

/-- The 13 rows of R63, in the table's order. -/
def opcodeRows : List OpRow :=
  [⟨0x00000000, 0xFFFFFFFF, false⟩, ⟨0x00000001, 0xFFFFFFFF, false⟩, ⟨0x00000002, 0xFFFFFFFF, false⟩,
   ⟨0x00000003, 0xFFFFFFFF, false⟩, ⟨0x00000004, 0xFFFFF0FF, true⟩, ⟨0x00000005, 0xFFFFF0FF, true⟩,
   ⟨0x00000006, 0xFFFFF0FF, true⟩] ++
  [⟨0x00000007, 0xFFFFF0FF, true⟩, ⟨0x00000008, 0xFFFFF0FF, true⟩, ⟨0x00000009, 0xFFFFF0FF, true⟩,
   ⟨0x0000000A, 0xFFFFF0FF, true⟩, ⟨0x0000000B, 0xFFFFF0FF, true⟩, ⟨0x0000000C, 0xFFFFFFFF, false⟩]

/-- A word selects a row when `(w AND mask) = match` and, for a row that says so, `w[11:8] <= 9` (R63). -/
def OpRow.selects (row : OpRow) (w : Word) : Bool :=
  w &&& row.mask == row.pattern && (!row.checkRnd || decide (roundOk (fieldRnd w)))

/-- The row of R63 that lists each command. -/
def Instr.row : Instr → OpRow
  | .nop => ⟨0x00000000, 0xFFFFFFFF, false⟩
  | .expandKey => ⟨0x00000001, 0xFFFFFFFF, false⟩
  | .encrypt => ⟨0x00000002, 0xFFFFFFFF, false⟩
  | .decrypt => ⟨0x00000003, 0xFFFFFFFF, false⟩
  | .perm _ => ⟨0x00000004, 0xFFFFF0FF, true⟩
  | .invPerm _ => ⟨0x00000005, 0xFFFFF0FF, true⟩
  | .mix _ => ⟨0x00000006, 0xFFFFF0FF, true⟩
  | .invMix _ => ⟨0x00000007, 0xFFFFF0FF, true⟩
  | .diff _ => ⟨0x00000008, 0xFFFFF0FF, true⟩
  | .invDiff _ => ⟨0x00000009, 0xFFFFF0FF, true⟩
  | .roundFwd _ => ⟨0x0000000A, 0xFFFFF0FF, true⟩
  | .roundInv _ => ⟨0x0000000B, 0xFFFFF0FF, true⟩
  | .zeroize => ⟨0x0000000C, 0xFFFFFFFF, false⟩

end Sys2Proof
end

