-- ==== Sys2Proof/Config.lean ====
section
/-! DEFINITION. Config.lean: what is fixed when one CORE is built and placed on its platform (00_scope.md R6,
70_reset_and_hazards.md R193). Every state carries its `Config`, so a statement about every state is a statement about every
`KS_C`, every `PERM_CONST` and every `CORE_BASE`, as 92_eei_decisions.md ("Parameters left OPEN") asks. -/

namespace Sys2Proof

/-- The build and platform parameters of R6. `LATENCY(opc)` is absent: the model has no time (R206, log entry 5). -/
structure Config where
  /-- `KS_C`, the 16-bit key-schedule constant `C` (R6, D3). -/
  ksC : Seg
  /-- `PERM_CONST`, the 32-bit `fixedConst` of the round seed (R6, D5). -/
  permConst : Word
  /-- `CORE_BASE`, the platform address of the 64-byte register window (R40, D12). -/
  coreBase : Nat
  deriving DecidableEq, Repr

/-- The defaults R6 gives for `KS_C` and `PERM_CONST`. The spec leaves `CORE_BASE` to the platform.
DESIGN CHOICE (log entry 3): this one concrete machine has its window at address 0. -/
def Config.default : Config := ⟨0x9E37, 0x9E3779B9, 0⟩

end Sys2Proof
end

