-- ==== Sys2Proof/Machine/State.lean ====
section
/-! DEFINITION. Machine/State.lean: everything the spec gives the CORE (10_state.md R20), the inputs of the outside world as a
list the step reads, the last bus response, and the state after reset (R36). Plain data throughout. -/

namespace Sys2Proof.Machine

/-- The direction of a host access, and the value a write delivers (20_memory.md R40). -/
inductive Dir where
  | read
  | write (v : Word)
  deriving DecidableEq, Repr

/-- One host access as the bus presents it: a platform address, a width in bytes, a direction. The spec's `BusRead(off)` and
`BusWrite(off, v)` are the accesses with `addr = CORE_BASE + off` and `size = 4` (00_scope.md R10, 20_memory.md R40, R42). -/
structure Access where
  addr : Nat
  size : Nat
  dir : Dir
  deriving DecidableEq, Repr

/-- Whose turn it is: the spec's two agents (20_memory.md R50: the host port and the command engine) and the reset input
(70_reset_and_hazards.md R190). -/
inductive Event where
  /-- one access on the host port -/
  | access (a : Access)
  /-- the command engine moves: it completes the pending command, if there is one (45_control.md R161) -/
  | engine
  /-- the reset input is asserted (R190) -/
  | resetAssert
  /-- the reset input is released (R190) -/
  | resetRelease
  deriving DecidableEq, Repr

/-- The CORE's response to the last host access. -/
inductive BusResp where
  /-- no access answered since reset -/
  | idle
  /-- the 32-bit value of a supported read (20_memory.md R45) -/
  | readData (v : Word)
  /-- a supported write was delivered (R46), whether or not it was dropped -/
  | writeDone
  /-- the bus error response, naming the unsupported access it answers; its read data is zero (R43) -/
  | busError (a : Access)
  deriving DecidableEq, Repr

/-- The error causes with a code of their own in `STATUS.ERR_CODE` (60_exceptions.md R170). -/
inductive ErrCode where
  | illegalCmd
  | badRound
  | noKey
  | busy
  /-- reserved for the source's condition, never recorded (42_mixing.md R118) -/
  | mixNotInvertible
  deriving DecidableEq, Repr

/-- The whole machine: R20's inventory, then the reset line, the inputs still to come and the last response. -/
structure State where
  /-- the build and platform parameters (R6, R193) -/
  cfg : Config
  /-- `DATA` (R21) -/
  data : Block
  /-- `KEY` (R22) -/
  key : Block
  /-- `BLOCK_INDEX` (R23) -/
  blockIndex : Word
  /-- `RK[0..9]` (R24) -/
  rk : RoundKeys
  /-- `STATUS.BUSY` (R25, R26) -/
  busy : Bool
  /-- `STATUS.KEY_VALID` (R25, R27) -/
  keyValid : Bool
  /-- `STATUS.DONE` (R25, R28) -/
  done : Bool
  /-- `STATUS.ERR` (R25, R29) -/
  err : Bool
  /-- `STATUS.ERR_CODE` (R25, R29) -/
  errCode : BitVec 4
  /-- `IRQ_EN.DONE_IE` (R30) -/
  doneIe : Bool
  /-- `IRQ_EN.ERR_IE` (R30) -/
  errIe : Bool
  /-- `PENDING`: the accepted command not yet completed, or empty (R33) -/
  pending : Option Instr
  /-- the reset input is asserted (R190, R192) -/
  resetLine : Bool
  /-- the model's own field: the turns of the agents still to come, in order (log entry 1) -/
  agenda : List Event
  /-- the model's own field: the response to the last host access (log entry 7) -/
  resp : BusResp
  deriving DecidableEq, Repr

/-- Why a run stops. -/
inductive Fault where
  /-- Raised by the host port for an access that begins outside the CORE's 64-byte window: the CORE has no other address
  (20_memory.md R40, R55), so the spec gives it nothing to answer. SAFE: the model stops where the platform goes on. -/
  | outsideWindow (a : Access)
  deriving DecidableEq, Repr

/-- Why an instruction has no meaning. -/
inductive Refusal where
  /-- Raised by `exec` for an instruction that has no meaning yet. SAFE: the model stops. No arm uses it. -/
  | notModelled (mnemonic : String)
  deriving DecidableEq, Repr

/-- The state right after the reset input is released, on a CORE built with parameters `c` (R36, R190, R193). -/
def State.resetWith (c : Config) : State where
  cfg := c
  data := Block.zero
  key := Block.zero
  blockIndex := 0
  rk := RoundKeys.zero
  busy := false
  keyValid := false
  done := false
  err := false
  errCode := 0
  doneIe := false
  errIe := false
  pending := none
  resetLine := false
  agenda := []
  resp := .idle

/-- The machine right after reset, for the default parameters (R6, R36; log entries 2 and 3). -/
def State.reset : State := State.resetWith Config.default

end Sys2Proof.Machine
end

