-- ==== Sys2Proof/Machine/Operands.lean ====
section
/-! DEFINITION. Machine/Operands.lean: how the words of the bus, the segments and the flat bits of a block, and the round
operand are read and written (00_scope.md R7 to R9, 20_memory.md R45 to R47, 30_encoding.md R61, R62). -/

namespace Sys2Proof

/-- Flat bit `b` of a block: bit `b mod 16` of segment `b div 16` (R8). -/
def Block.bit (B : Block) (b : Fin 128) : Bool :=
  (B[b.val / 16]'(by omega)).getLsbD (b.val % 16)

/-- A segment with bit `k` set to `v`. -/
def segSetBit (x : Seg) (k : Nat) (v : Bool) : Seg :=
  if v then x ||| (1#16 <<< k) else x &&& ~~~(1#16 <<< k)

/-- A block with flat bit `b` set to `v` (R8). -/
def Block.setBit (B : Block) (b : Fin 128) (v : Bool) : Block :=
  B.set (b.val / 16) (segSetBit (B[b.val / 16]'(by omega)) (b.val % 16) v) (by omega)

/-- The block whose segment `i` is `f i`. -/
def Block.ofFn (f : Fin 8 → Seg) : Block := #v[f 0, f 1, f 2, f 3, f 4, f 5, f 6, f 7]

/-- The ten round keys whose key `r` is `f r`. -/
def RoundKeys.ofFn (f : Fin 10 → Block) : RoundKeys :=
  #v[f 0, f 1, f 2, f 3, f 4, f 5, f 6, f 7, f 8, f 9]

/-- Register word `w` of a 128-bit register: `seg[2w]` in bits 15:0 and `seg[2w+1]` in bits 31:16 (R47). -/
def Block.word (B : Block) (w : Fin 4) : Word :=
  (B[2 * w.val + 1]'(by omega)) ++ (B[2 * w.val]'(by omega))

/-- A 128-bit register with register word `w` written: `seg[2w] <- v[15:0]; seg[2w+1] <- v[31:16]` (R46, R47). -/
def Block.setWord (B : Block) (w : Fin 4) (v : Word) : Block :=
  (B.set (2 * w.val) (v.extractLsb' 0 16) (by omega)).set (2 * w.val + 1) (v.extractLsb' 16 16) (by omega)

/-- The block as one 128-bit unsigned integer, segment `i` at bits `16i` to `16i + 15` (R8). -/
def Block.flat (B : Block) : BitVec 128 :=
  B[7] ++ B[6] ++ B[5] ++ B[4] ++ B[3] ++ B[2] ++ B[1] ++ B[0]

namespace Machine

/-- The segment order of the mixing layer, `i = 0..7` (R113). -/
def segOrder : List (Fin 8) := [0, 1, 2, 3, 4, 5, 6, 7]

/-- The round order of encryption, `r = 0..9` (R142). -/
def roundOrder : List (Fin 10) := [0, 1, 2, 3, 4, 5, 6, 7, 8, 9]

/-- The round a format CR command names; none for 10 to 15 (R61). -/
def roundOf (rnd : BitVec 4) : Option (Fin 10) :=
  if h : rnd.toNat < 10 then some ⟨rnd.toNat, h⟩ else none

/-- Round key `RK[r]` (R24). -/
def State.roundKey (s : State) (r : Fin 10) : Block := s.rk[r]

/-- The commands that read `RK` and so need `KEY_VALID` (R62, R160). -/
def needsKey : Instr → Bool
  | .nop => false
  | .expandKey => false
  | .encrypt => true
  | .decrypt => true
  | .perm _ => false
  | .invPerm _ => false
  | .mix _ => true
  | .invMix _ => true
  | .diff _ => true
  | .invDiff _ => true
  | .roundFwd _ => true
  | .roundInv _ => true
  | .zeroize => false

end Machine
end Sys2Proof
end

