-- ==== Sys2Proof/Machine/Flags.lean ====
section
/-! DEFINITION. Machine/Flags.lean: the STATUS and IRQ_EN registers as words, the write-one-to-clear bits, and the interrupt
output. The CORE has no arithmetic flags (10_state.md R35). -/

namespace Sys2Proof.Machine

/-- One bit as a word's lowest bit. -/
def flagBit (b : Bool) : BitVec 1 := BitVec.ofBool b

/-- STATUS as a read returns it: `zext_32({ERR_CODE[3:0], ERR, DONE, KEY_VALID, BUSY})` (10_state.md R25, 20_memory.md R45). -/
def statusWord (s : State) : Word :=
  (s.errCode ++ flagBit s.err ++ flagBit s.done ++ flagBit s.keyValid ++ flagBit s.busy).setWidth 32

/-- IRQ_EN as a read returns it: `zext_32({ERR_IE, DONE_IE})` (10_state.md R30, 20_memory.md R45). -/
def irqEnWord (s : State) : Word := (flagBit s.errIe ++ flagBit s.doneIe).setWidth 32

/-- `DONE <- 0`, the acknowledgement of a completion (10_state.md R28, 60_exceptions.md R175). -/
def ackDone (s : State) : State := { s with done := false }

/-- `ERR <- 0; ERR_CODE <- 0`, the acknowledgement of an error (10_state.md R29, 60_exceptions.md R175). -/
def ackErr (s : State) : State := { s with err := false, errCode := 0 }

/-- A write of STATUS: bit 2 clears DONE, bit 3 clears ERR and ERR_CODE, every other bit is ignored (20_memory.md R46). -/
def writeStatus (v : Word) (s : State) : State :=
  let s := if v.getLsbD 2 then ackDone s else s
  if v.getLsbD 3 then ackErr s else s

/-- A write of IRQ_EN: `DONE_IE <- v[0]; ERR_IE <- v[1]` (20_memory.md R46). -/
def writeIrqEn (v : Word) (s : State) : State := { s with doneIe := v.getLsbD 0, errIe := v.getLsbD 1 }

/-- The interrupt output: `(DONE AND DONE_IE) OR (ERR AND ERR_IE)` (60_exceptions.md R176). -/
def State.irq (s : State) : Bool := (s.done && s.doneIe) || (s.err && s.errIe)

end Sys2Proof.Machine
end

