-- ==== Sys2Proof/Machine/Ops.lean ====
section
/-! DEFINITION. Machine/Ops.lean: the operations every command shares. Raising an error (60_exceptions.md R172) is what this
hardware has in place of taking an exception: it has no traps (R174) and no return from one (R175); the host acknowledges an
error by `Flags.ackErr`. Beside it: acceptance (45_control.md R160), completion (R161) and the reset input (R190 to R192). -/

namespace Sys2Proof.Machine

/-- The code `STATUS.ERR_CODE` records for each cause (R170). -/
def ErrCode.code : ErrCode → BitVec 4
  | .illegalCmd => 1
  | .badRound => 2
  | .noKey => 3
  | .busy => 4
  | .mixNotInvertible => 5

/-- `raise Error(code)`: the first error since ERR was cleared is recorded, a later one changes nothing (R172). -/
def raiseError (c : ErrCode) (s : State) : State :=
  if s.err then s else { s with err := true, errCode := c.code }

/-- A command is accepted: `PENDING <- (opc, r); BUSY <- 1; DONE <- 0` (R160). -/
def accept (i : Instr) (s : State) : State := { s with pending := some i, busy := true, done := false }

/-- The end of every completion: `PENDING <- empty; BUSY <- 0; DONE <- 1` (R161). -/
def retire (s : State) : State := { s with pending := none, busy := false, done := true }

/-- The error a command word is rejected with, in the order of R160 and R171: BUSY, ILLEGAL_CMD, BAD_ROUND, NO_KEY; or the
command it submits. -/
def checkWord (w : Word) (s : State) : Except ErrCode Instr :=
  if s.busy then .error .busy
  else
    match decode w with
    | .illegalCmd => .error .illegalCmd
    | .badRound => .error .badRound
    | .command i => if needsKey i && !s.keyValid then .error .noKey else .ok i

/-- `submit(w)`: the acceptance or rejection of a word written to CMD (R160). -/
def submit (w : Word) (s : State) : State :=
  match checkWord w s with
  | .error c => raiseError c s
  | .ok i => accept i s

/-- `DATA <- B`. -/
def setData (B : Block) (s : State) : State := { s with data := B }

/-- A completion whose own effect is `f` (R161). -/
def completeWith (f : State → State) (s : State) : Host.Outcome State Fault Refusal := .next (retire (f s))

/-- A completion of a format CR command, whose own effect at round `r` is `f r`; a round field that names no round has only
the effect of its error, `BAD_ROUND` (R61, R172). PENDING never holds such a command (R160; log entry 6). -/
def completeRound (rnd : BitVec 4) (f : Fin 10 → State → State) (s : State) : Host.Outcome State Fault Refusal :=
  match roundOf rnd with
  | some r => completeWith (f r) s
  | none => .next (raiseError .badRound s)

/-- While the reset input is asserted every piece of state has its reset value; the parameters stay (R190, R191, R193). -/
def holdReset (s : State) : State :=
  { State.resetWith s.cfg with resetLine := true, agenda := s.agenda }

/-- The reset input is released: every piece of state has its reset value (R190). A release of a line that is not asserted
changes nothing. -/
def releaseReset (s : State) : State :=
  if s.resetLine then { State.resetWith s.cfg with agenda := s.agenda } else s

end Sys2Proof.Machine
end

