-- ==== Sys2Proof/Machine/BusPort.lean ====
section
/-! DEFINITION. Machine/BusPort.lean: the host port: the register map, `BusRead`, `BusWrite`, and the response to any access
(20_memory.md R40 to R48). -/

namespace Sys2Proof.Machine

/-- The registers of the window by name (R41). -/
inductive Reg where
  | id
  | cmd
  | status
  | irqEn
  | blockIndex
  /-- the reserved offsets 0x14, 0x18, 0x1C -/
  | reserved (k : Fin 3)
  /-- KEY0 to KEY3 -/
  | key (w : Fin 4)
  /-- DATA0 to DATA3 -/
  | data (w : Fin 4)
  deriving DecidableEq, Repr

/-- The byte offset of each register (R41). -/
def Reg.offset : Reg → Nat
  | .id => 0x00
  | .cmd => 0x04
  | .status => 0x08
  | .irqEn => 0x0C
  | .blockIndex => 0x10
  | .reserved k => 0x14 + 4 * k.val
  | .key w => 0x20 + 4 * w.val
  | .data w => 0x30 + 4 * w.val

/-- The register at a byte offset; none for an offset that is not a multiple of 4 or is outside the window (R41, R42). -/
def regAt (off : Nat) : Option Reg :=
  match off with
  | 0x00 => some .id
  | 0x04 => some .cmd
  | 0x08 => some .status
  | 0x0C => some .irqEn
  | 0x10 => some .blockIndex
  | 0x14 => some (.reserved 0)
  | 0x18 => some (.reserved 1)
  | 0x1C => some (.reserved 2)
  | 0x20 => some (.key 0)
  | 0x24 => some (.key 1)
  | 0x28 => some (.key 2)
  | 0x2C => some (.key 3)
  | 0x30 => some (.data 0)
  | 0x34 => some (.data 1)
  | 0x38 => some (.data 2)
  | 0x3C => some (.data 3)
  | _ => none

/-- The constant the ID register reads, "DLNC" (10_state.md R31). -/
def idValue : Word := 0x444C4E43

/-- `BusRead` of a register; CMD, the KEY words and the reserved offsets read as zero (R41, R45). -/
def readReg (g : Reg) (s : State) : Word :=
  match g with
  | .id => idValue
  | .cmd => 0
  | .status => statusWord s
  | .irqEn => irqEnWord s
  | .blockIndex => s.blockIndex
  | .reserved _ => 0
  | .key _ => 0
  | .data w => s.data.word w

/-- A host write of a KEY word: it also clears KEY_VALID (R46, 10_state.md R22). -/
def writeKey (w : Fin 4) (v : Word) (s : State) : State :=
  { s with key := s.key.setWord w v, keyValid := false }

/-- A write that is dropped, recording BUSY, while `BUSY = 1` (R46). -/
def unlessBusy (f : State → State) (s : State) : State :=
  if s.busy then raiseError .busy s else f s

/-- `BusWrite` of a register (R46). -/
def writeReg (g : Reg) (v : Word) (s : State) : State :=
  match g with
  | .id => s
  | .cmd => unlessBusy (submit v) s
  | .status => writeStatus v s
  | .irqEn => writeIrqEn v s
  | .blockIndex => unlessBusy (fun t => { t with blockIndex := v }) s
  | .reserved _ => s
  | .key w => unlessBusy (writeKey w v) s
  | .data w => unlessBusy (fun t => setData (t.data.setWord w v) t) s

/-- The window is 64 bytes at `CORE_BASE` (R40). -/
abbrev Access.inWindow (a : Access) (c : Config) : Prop := c.coreBase ≤ a.addr ∧ a.addr < c.coreBase + 64

/-- The register an access names, if the access is supported: 32 bits wide, at an offset that is a multiple of 4 (R42, R43). -/
def Access.reg? (a : Access) (c : Config) : Option Reg :=
  if a.size = 4 then regAt (a.addr - c.coreBase) else none

/-- An access answered while the reset input is asserted: a write has no effect, a read returns zero
(70_reset_and_hazards.md R192). -/
def accessInReset (a : Access) (s : State) : State :=
  match a.dir with
  | .read => { holdReset s with resp := .readData 0 }
  | .write _ => { holdReset s with resp := .writeDone }

/-- A supported access to register `g`: a read changes no state but the response (R44), a write does what R46 says. -/
def accessReg (g : Reg) (d : Dir) (s : State) : State :=
  match d with
  | .read => { s with resp := .readData (readReg g s) }
  | .write v => { writeReg g v s with resp := .writeDone }

/-- The CORE's answer to any host access. An unsupported access gets the bus error response and changes nothing (R43, R173). -/
def hostAccess (a : Access) (s : State) : Host.Outcome State Fault Refusal :=
  if a.inWindow s.cfg then
    if s.resetLine then .next (accessInReset a s)
    else
      match a.reg? s.cfg with
      | some g => .next (accessReg g a.dir s)
      | none => .next { s with resp := .busError a }
  else .fault (.outsideWindow a)

/-- The data an answered read carries: zero for a bus error response (R43). -/
def BusResp.data : BusResp → Word
  | .idle => 0
  | .readData v => v
  | .writeDone => 0
  | .busError _ => 0

/-- The supported 32-bit read of a register, `BusRead(off)` (R10, R40). -/
def Config.readOf (c : Config) (g : Reg) : Access := ⟨c.coreBase + g.offset, 4, .read⟩

/-- The supported 32-bit write of a register, `BusWrite(off, v)` (R10, R40). -/
def Config.writeOf (c : Config) (g : Reg) (v : Word) : Access := ⟨c.coreBase + g.offset, 4, .write v⟩

/-- The byte a platform that presents the registers as bytes shows at `CORE_BASE + g.offset + k` (R48). -/
def regByte (g : Reg) (k : Fin 4) (s : State) : Byte := byteLane (readReg g s) k.val

end Sys2Proof.Machine
end

