-- ==== Sys2Proof/Machine/Control.lean ====
section
/-! DEFINITION. Machine/Control.lean: the housekeeping commands NOP and ZEROIZE (45_control.md). -/

namespace Sys2Proof.Machine

/-- NOP: nothing beyond the lifecycle (R163). -/
def execNop (s : State) : Host.Outcome State Fault Refusal := completeWith id s

/-- `KEY <- 0; RK[0..9] <- 0; DATA <- 0; BLOCK_INDEX <- 0; KEY_VALID <- 0` (R162). -/
def clearKeysAndData (s : State) : State :=
  { s with key := Block.zero, rk := RoundKeys.zero, data := Block.zero, blockIndex := 0, keyValid := false }

/-- ZEROIZE (R162). -/
def execZeroize (s : State) : Host.Outcome State Fault Refusal := completeWith clearKeysAndData s

end Sys2Proof.Machine
end

