-- ==== Sys2Proof/Machine/KeySchedule.lean ====
section
/-! DEFINITION. Machine/KeySchedule.lean: the key schedule and EXPAND_KEY (40_key_schedule.md). The key-schedule constant is
an argument (00_scope.md R6). -/

namespace Sys2Proof.Machine

/-- `ksSeg(m, r) = ((m XOR (((r + 1) * KS_C) mod 2^16)) + r) mod 2^16` (R80). -/
def ksSeg (ksC m : Seg) (r : Fin 10) : Seg :=
  (m ^^^ (BitVec.ofNat 16 (r.val + 1) * ksC)) + BitVec.ofNat 16 r.val

/-- `expandKey(K)`: `RK'[r].seg[i] <- ksSeg(K.seg[i], r)` (R81). -/
def expandKey (ksC : Seg) (K : Block) : RoundKeys :=
  RoundKeys.ofFn fun r => Block.ofFn fun i => ksSeg ksC K[i] r

/-- `RK[0..9] <- expandKey(KEY); KEY_VALID <- 1` (R82). -/
def loadRoundKeys (s : State) : State := { s with rk := expandKey s.cfg.ksC s.key, keyValid := true }

/-- EXPAND_KEY (R82). -/
def execExpandKey (s : State) : Host.Outcome State Fault Refusal := completeWith loadRoundKeys s

end Sys2Proof.Machine
end

