-- ==== Sys2Proof/Machine/Diffusion.lean ====
section
/-! DEFINITION. Machine/Diffusion.lean: rotation, the diffusion layer, DIFF and INV_DIFF (43_diffusion.md). -/

namespace Sys2Proof.Machine

/-- `rotl16(x, n)` for `n` in `0..16`; 0 and 16 are the identity, and no shift by 16 is ever made (R130). -/
def rotl16 (x : Seg) (n : Nat) : Seg :=
  if n = 0 ∨ n = 16 then x else (x <<< n) ||| (x >>> (16 - n))

/-- The rotation amount of a key segment, `K.seg[i] mod 16` (R131). -/
def rotAmount (k : Seg) : Nat := k.toNat % 16

/-- One lane of `diff`: `rotl16(x, k mod 16) XOR k` (R131). -/
def diffLane (x k : Seg) : Seg := rotl16 x (rotAmount k) ^^^ k

/-- One lane of `invDiff`: `rotl16(x XOR k, 16 - k mod 16)` (R132). -/
def invDiffLane (x k : Seg) : Seg := rotl16 (x ^^^ k) (16 - rotAmount k)

/-- `diff(B, K)`, lane by lane (R131). -/
def diff (B K : Block) : Block := Block.ofFn fun i => diffLane B[i] K[i]

/-- `invDiff(B, K)`, lane by lane (R132). -/
def invDiff (B K : Block) : Block := Block.ofFn fun i => invDiffLane B[i] K[i]

/-- `DATA <- diff(DATA, RK[r])` (R133). -/
def diffData (r : Fin 10) (s : State) : State := setData (diff s.data (s.roundKey r)) s

/-- `DATA <- invDiff(DATA, RK[r])` (R134). -/
def invDiffData (r : Fin 10) (s : State) : State := setData (invDiff s.data (s.roundKey r)) s

/-- DIFF r (R133). -/
def execDiff (rnd : BitVec 4) (s : State) : Host.Outcome State Fault Refusal := completeRound rnd diffData s

/-- INV_DIFF r (R134). -/
def execInvDiff (rnd : BitVec 4) (s : State) : Host.Outcome State Fault Refusal := completeRound rnd invDiffData s

end Sys2Proof.Machine
end

