-- ==== Sys2Proof/Machine/Mixing.lean ====
section
/-! DEFINITION. Machine/Mixing.lean: arithmetic modulo 65537, the nonlinear mixing layer, MIX and INV_MIX (42_mixing.md).
`mulQ`, `invQ` and `divQ` are irreducible, so that no unification runs them; `rw` and `unfold` open them. -/

namespace Sys2Proof.Machine

/-- The mixing modulus `Q = 65537` (00_scope.md R5). -/
def Q : Nat := 65537

/-- `mulQ(a, f) = (((a + 1) * (f + 1)) mod Q) - 1` on exact integers (R110). -/
@[irreducible] def mulQ (a f : Seg) : Seg := BitVec.ofNat 16 ((a.toNat + 1) * (f.toNat + 1) % Q - 1)

/-- `x^(2^(k+1) - 1) mod Q`, by squaring `k` times. -/
def powChain (x : Nat) : Nat → Nat
  | 0 => x % Q
  | k + 1 => powChain x k * powChain x k % Q * x % Q

/-- `invQ(x) = x^(Q-2) mod Q = x^65535 mod Q` (R111, Fermat; 93_implementation_defined.md G3). -/
@[irreducible] def invQ (x : Nat) : Nat := powChain x 15

/-- `divQ(y, f) = (((y + 1) * invQ(f + 1)) mod Q) - 1` (R112). -/
@[irreducible] def divQ (y f : Seg) : Seg := BitVec.ofNat 16 ((y.toNat + 1) * invQ (f.toNat + 1) % Q - 1)

/-- The factor of segment `i`: `(s[(i + 1) mod 8] + K.seg[i]) mod 2^16` (R113). -/
def factor (K s : Block) (i : Fin 8) : Seg := s[i + 1] + K[i]

/-- Step `i` of `mix`: `s[i] <- mulQ(s[i], f)` (R113). -/
def mixStep (K s : Block) (i : Fin 8) : Block := s.set i (mulQ s[i] (factor K s i))

/-- Step `i` of `invMix`: `s[i] <- divQ(s[i], f)` (R114). -/
def invMixStep (K s : Block) (i : Fin 8) : Block := s.set i (divQ s[i] (factor K s i))

/-- `mix(B, K)`: the segments in place, in ascending order (R113). -/
def mix (B K : Block) : Block := segOrder.foldl (mixStep K) B

/-- `invMix(B, K)`: the segments in place, in descending order (R114). -/
def invMix (B K : Block) : Block := segOrder.reverse.foldl (invMixStep K) B

/-- `DATA <- mix(DATA, RK[r])` (R116). -/
def mixData (r : Fin 10) (s : State) : State := setData (mix s.data (s.roundKey r)) s

/-- `DATA <- invMix(DATA, RK[r])` (R117). -/
def invMixData (r : Fin 10) (s : State) : State := setData (invMix s.data (s.roundKey r)) s

/-- MIX r (R116). -/
def execMix (rnd : BitVec 4) (s : State) : Host.Outcome State Fault Refusal := completeRound rnd mixData s

/-- INV_MIX r (R117). -/
def execInvMix (rnd : BitVec 4) (s : State) : Host.Outcome State Fault Refusal := completeRound rnd invMixData s

end Sys2Proof.Machine
end

