-- ==== Sys2Proof/Machine/Permutation.lean ====
section
/-! DEFINITION. Machine/Permutation.lean: the permutation generator, the bit-permutation layer, PERM and INV_PERM
(41_permutation.md). The constant of the round seed is an argument (00_scope.md R6). The functions that loop 127 or 128 times are
irreducible, so that no unification runs them; `rw` and `unfold` open them. -/

namespace Sys2Proof.Machine

/-- A permutation table: entry `b` is the flat position source bit `b` moves to (R94, R98). -/
abbrev PermTable := Vector (Fin 128) 128

/-- `roundSeed(r) = PERM_CONST XOR zext_32(r)` (R90). -/
def roundSeed (permConst : Word) (r : Fin 10) : Word := permConst ^^^ BitVec.ofNat 32 r.val

/-- The generator's initial state, `{idx, roundSeed(r)}` (R91). -/
def seedState (permConst : Word) (r : Fin 10) (idx : Word) : BitVec 64 := idx ++ roundSeed permConst r

/-- `LCG_A` (R92). -/
def lcgA : BitVec 64 := 0x5851F42D4C957F2D

/-- `LCG_INC` (R92). -/
def lcgInc : BitVec 64 := 0x14057B7EF767814F

/-- The state after one step of the generator (R92). -/
def lcgNext (S : BitVec 64) : BitVec 64 := lcgA * S + lcgInc

/-- The output of the step that led to state `S`: `S[63:32]` (R92). -/
def lcgOut (S : BitVec 64) : Word := S.extractLsb' 32 32

/-- The random index: `j = (x * (i + 1)) >> 32` (R93). -/
def drawIndex (x : Word) (i : Nat) : Nat := (x.toNat * (i + 1)) >>> 32

/-- The loop of R93 for `i` down to 1: draw, then swap entries `i` and `j`. -/
@[irreducible] def shuffleFrom : Nat → BitVec 64 → PermTable → PermTable
  | 0, _, P => P
  | i + 1, S, P =>
    let S' := lcgNext S
    shuffleFrom i S' (P.swapIfInBounds (i + 1) (drawIndex (lcgOut S') (i + 1)))

/-- The identity of length 128 (R93). -/
def idTable : PermTable := Vector.ofFn id

/-- `perm(r, idx)` (R94): 127 draws from the state of R91. -/
@[irreducible] def permTable (permConst : Word) (r : Fin 10) (idx : Word) : PermTable :=
  shuffleFrom 127 (seedState permConst r idx) idTable

/-- The flat bit positions `b = 0..127` in order (R98, R99). -/
def bitOrder : List (Fin 128) := List.finRange 128

/-- `applyPerm(B, P)`: `bit(B', P[b]) <- bit(B, b)` (R98). -/
@[irreducible] def applyPerm (B : Block) (P : PermTable) : Block :=
  bitOrder.foldl (fun B' b => B'.setBit P[b] (B.bit b)) Block.zero

/-- `applyInvPerm(B, P)`: `bit(B', b) <- bit(B, P[b])` (R99). -/
@[irreducible] def applyInvPerm (B : Block) (P : PermTable) : Block :=
  bitOrder.foldl (fun B' b => B'.setBit b (B.bit P[b])) Block.zero

/-- The table of round `r` under the machine's `PERM_CONST` and `BLOCK_INDEX` (R94). -/
def State.perm (s : State) (r : Fin 10) : PermTable := permTable s.cfg.permConst r s.blockIndex

/-- `DATA <- applyPerm(DATA, perm(r, BLOCK_INDEX))` (R100). -/
def permData (r : Fin 10) (s : State) : State := setData (applyPerm s.data (s.perm r)) s

/-- `DATA <- applyInvPerm(DATA, perm(r, BLOCK_INDEX))` (R101). -/
def invPermData (r : Fin 10) (s : State) : State := setData (applyInvPerm s.data (s.perm r)) s

/-- PERM r (R100). -/
def execPerm (rnd : BitVec 4) (s : State) : Host.Outcome State Fault Refusal := completeRound rnd permData s

/-- INV_PERM r (R101). -/
def execInvPerm (rnd : BitVec 4) (s : State) : Host.Outcome State Fault Refusal := completeRound rnd invPermData s

end Sys2Proof.Machine
end

