-- ==== Sys2Proof/Machine/RoundPipeline.lean ====
section
/-! DEFINITION. Machine/RoundPipeline.lean: one round, the ten-round encrypt and decrypt, ROUND_FWD, ROUND_INV, ENCRYPT and
DECRYPT (44_round_pipeline.md). -/

namespace Sys2Proof.Machine

/-- `roundFwd(B, RK, r, idx)`: permutation, mixing, diffusion (R140). -/
def roundFwd (permConst : Word) (RK : RoundKeys) (idx : Word) (B : Block) (r : Fin 10) : Block :=
  diff (mix (applyPerm B (permTable permConst r idx)) RK[r]) RK[r]

/-- `roundInv(B, RK, r, idx)`: inverse diffusion, inverse mixing, inverse permutation (R141). -/
def roundInv (permConst : Word) (RK : RoundKeys) (idx : Word) (B : Block) (r : Fin 10) : Block :=
  applyInvPerm (invMix (invDiff B RK[r]) RK[r]) (permTable permConst r idx)

/-- `encryptBlock(B, RK, idx)`: forward rounds 0 to 9 (R142). -/
def encryptBlock (permConst : Word) (RK : RoundKeys) (idx : Word) (B : Block) : Block :=
  roundOrder.foldl (roundFwd permConst RK idx) B

/-- `decryptBlock(B, RK, idx)`: backward rounds 9 to 0 (R143). -/
def decryptBlock (permConst : Word) (RK : RoundKeys) (idx : Word) (B : Block) : Block :=
  roundOrder.reverse.foldl (roundInv permConst RK idx) B

/-- `DATA <- roundFwd(DATA, RK, r, BLOCK_INDEX)` (R146). -/
def roundFwdData (r : Fin 10) (s : State) : State :=
  setData (roundFwd s.cfg.permConst s.rk s.blockIndex s.data r) s

/-- `DATA <- roundInv(DATA, RK, r, BLOCK_INDEX)` (R147). -/
def roundInvData (r : Fin 10) (s : State) : State :=
  setData (roundInv s.cfg.permConst s.rk s.blockIndex s.data r) s

/-- `DATA <- encryptBlock(DATA, RK, BLOCK_INDEX)` (R148). -/
def encryptData (s : State) : State := setData (encryptBlock s.cfg.permConst s.rk s.blockIndex s.data) s

/-- `DATA <- decryptBlock(DATA, RK, BLOCK_INDEX)` (R149). -/
def decryptData (s : State) : State := setData (decryptBlock s.cfg.permConst s.rk s.blockIndex s.data) s

/-- ROUND_FWD r (R146). -/
def execRoundFwd (rnd : BitVec 4) (s : State) : Host.Outcome State Fault Refusal := completeRound rnd roundFwdData s

/-- ROUND_INV r (R147). -/
def execRoundInv (rnd : BitVec 4) (s : State) : Host.Outcome State Fault Refusal := completeRound rnd roundInvData s

/-- ENCRYPT (R148). -/
def execEncrypt (s : State) : Host.Outcome State Fault Refusal := completeWith encryptData s

/-- DECRYPT (R149). -/
def execDecrypt (s : State) : Host.Outcome State Fault Refusal := completeWith decryptData s

end Sys2Proof.Machine
end

