-- ==== Sys2Proof/Machine/Dispatch.lean ====
section
/-! DEFINITION. Machine/Dispatch.lean: `exec i s` is the completion of command `i` in state `s` (45_control.md R161), one arm
per command. The checks made when the command word is written are `submit` of Machine/Ops.lean (R160). -/

namespace Sys2Proof.Machine

def exec (i : Instr) (s : State) : Host.Outcome State Fault Refusal :=
  match i with
  | .nop => Sys2Proof.Machine.execNop s
  | .expandKey => Sys2Proof.Machine.execExpandKey s
  | .encrypt => Sys2Proof.Machine.execEncrypt s
  | .decrypt => Sys2Proof.Machine.execDecrypt s
  | .perm rnd => Sys2Proof.Machine.execPerm rnd s
  | .invPerm rnd => Sys2Proof.Machine.execInvPerm rnd s
  | .mix rnd => Sys2Proof.Machine.execMix rnd s
  | .invMix rnd => Sys2Proof.Machine.execInvMix rnd s
  | .diff rnd => Sys2Proof.Machine.execDiff rnd s
  | .invDiff rnd => Sys2Proof.Machine.execInvDiff rnd s
  | .roundFwd rnd => Sys2Proof.Machine.execRoundFwd rnd s
  | .roundInv rnd => Sys2Proof.Machine.execRoundInv rnd s
  | .zeroize => Sys2Proof.Machine.execZeroize s

end Sys2Proof.Machine
end

