-- ==== Sys2Proof/Machine/Engine.lean ====
section
/-! DEFINITION. Machine/Engine.lean: the turns of the agents (20_memory.md R50): the command engine (45_control.md R161), the
host port, the reset input (70_reset_and_hazards.md R190); and how a command word is placed for the next step to run. -/

namespace Sys2Proof.Machine

/-- The engine's turn: it completes the pending command, if there is one; a reset that is asserted holds everything at its
reset value (R161, R190, R191). -/
def engineTurn (s : State) : Host.Outcome State Fault Refusal :=
  if s.resetLine then .next (holdReset s)
  else
    match s.pending with
    | none => .next s
    | some i => exec i s

/-- The turn of the agent that event `e` names. -/
def turn (e : Event) (s : State) : Host.Outcome State Fault Refusal :=
  match e with
  | .access a => hostAccess a s
  | .engine => engineTurn s
  | .resetAssert => .next (holdReset s)
  | .resetRelease => .next (releaseReset s)

/-- One step: the first turn of the agenda, taken off it; when the agenda is empty the engine moves, so an accepted command
completes in every run (R161, R206: fairness). -/
def nextTurn (s : State) : Host.Outcome State Fault Refusal :=
  match s.agenda with
  | [] => engineTurn s
  | e :: es => turn e { s with agenda := es }

/-- The agenda with the engine's turn first (an empty agenda already is one). -/
def engineFirst : List Event → List Event
  | [] => []
  | e :: es => .engine :: e :: es

/-- The machine with a command word placed so that the next step runs it (log entry 4). A word that is a command is placed in
PENDING as its acceptance leaves it; any other word can stand only on the bus, so it is placed as the next CMD write, which the
next step decodes and rejects by name (R160, R171). -/
def placeWord (w : Word) (s : State) : State :=
  match decode w with
  | .command i => { accept i s with resetLine := false, agenda := engineFirst s.agenda }
  | .illegalCmd | .badRound =>
    { s with pending := none, busy := false, resetLine := false,
             agenda := .access (Config.writeOf s.cfg .cmd w) :: s.agenda }

end Sys2Proof.Machine
end

