-- ==== Sys2Proof/Machine/HostProgram.lean ====
section
/-! DEFINITION. Machine/HostProgram.lean: the host-program notation of 30_encoding.md R66 and the safe handshake of
70_reset_and_hazards.md R202, expanded to the turns the step reads. -/

namespace Sys2Proof.Machine

/-- One line of a host program (R66). `WAIT` is a loop of STATUS reads; the model writes one of its executions: `polls` reads
that find `BUSY = 1`, the engine's turn, and the read that ends the loop. -/
inductive HostLine where
  | wr (g : Reg) (v : Word)
  | rd (g : Reg)
  | wait (polls : Nat)
  | cmd (i : Instr)
  | ldkey (K : Block)
  | ldblk (B : Block)
  | rdblk
  | clr
  deriving DecidableEq, Repr

/-- A write and a read of a register as turns. -/
def wrEvent (c : Config) (g : Reg) (v : Word) : Event := .access (Config.writeOf c g v)

/-- `RD <REG>` (R66). -/
def rdEvent (c : Config) (g : Reg) : Event := .access (Config.readOf c g)

/-- The expansion of a line (R66). -/
def HostLine.expand (c : Config) : HostLine → List Event
  | .wr g v => [wrEvent c g v]
  | .rd g => [rdEvent c g]
  | .wait polls => List.replicate polls (rdEvent c .status) ++ [.engine, rdEvent c .status]
  | .cmd i => [wrEvent c .cmd (encode i)]
  | .ldkey K => [wrEvent c (.key 0) (K.word 0), wrEvent c (.key 1) (K.word 1), wrEvent c (.key 2) (K.word 2),
      wrEvent c (.key 3) (K.word 3)]
  | .ldblk B => [wrEvent c (.data 0) (B.word 0), wrEvent c (.data 1) (B.word 1), wrEvent c (.data 2) (B.word 2),
      wrEvent c (.data 3) (B.word 3)]
  | .rdblk => [rdEvent c (.data 0), rdEvent c (.data 1), rdEvent c (.data 2), rdEvent c (.data 3)]
  | .clr => [wrEvent c .status 0x0000000C]

/-- The turns of a whole host program, in program order (R51, R66). -/
def hostProgram (c : Config) (ls : List HostLine) : List Event := ls.flatMap (HostLine.expand c)

end Sys2Proof.Machine
end

