-- ==== Sys2Proof/Safety.lean ====
section
/-! DEFINITION. Safety.lean: the terms claims are stated in: runs of turns, runs of commands, the invariants of 10_state.md R37
and the two facts about PENDING and ERR_CODE that R160, R170 and 93_implementation_defined.md I5 add to them. -/

namespace Sys2Proof.Machine

/-- The outcome of one turn handed to what follows it: a fault or a refusal stops. -/
def andThen (o : Host.Outcome State Fault Refusal) (f : State → Host.Outcome State Fault Refusal) :
    Host.Outcome State Fault Refusal :=
  match o with
  | .next s => f s
  | .fault r => .fault r
  | .refused r => .refused r

/-- The turns of a list, one after the other (R50: a sequentially consistent interleaving). -/
def runTurns : List Event → State → Host.Outcome State Fault Refusal
  | [], s => .next s
  | e :: es, s => andThen (turn e s) (runTurns es)

/-- The completions of a list of commands, one after the other. -/
def runCommands : List Instr → State → Host.Outcome State Fault Refusal
  | [], s => .next s
  | i :: is, s => andThen (exec i s) (runCommands is)

/-- The four invariants of R37, in its order. -/
abbrev State.Inv (s : State) : Prop :=
  (s.busy = true ↔ s.pending.isSome = true) ∧
  (s.keyValid = true → s.rk = expandKey s.cfg.ksC s.key) ∧
  (s.err = false → s.errCode = 0) ∧
  (s.busy = true → s.done = false)

/-- PENDING holds only a command that decoding gives, and a keyed one only while KEY_VALID is 1 (R61, R160). -/
abbrev State.PendingLegal (s : State) : Prop :=
  ∀ i, s.pending = some i → i.wf = true ∧ (needsKey i = true → s.keyValid = true)

/-- `ERR_CODE` is 0 while no error is recorded, and one of the codes 1 to 4 while one is: the reserved codes 5 to 15 are never
recorded (R170, I5). -/
abbrev State.ErrCodeLegal (s : State) : Prop :=
  if s.err then 1 ≤ s.errCode.toNat ∧ s.errCode.toNat ≤ 4 else s.errCode = 0

/-- The command engine's invariant: R37.1 with the two facts above. -/
abbrev State.EngineInv (s : State) : Prop :=
  (s.busy = true ↔ s.pending.isSome = true) ∧ s.PendingLegal ∧ s.ErrCodeLegal

/-- The register a host write is dropped at while `BUSY = 1`: CMD, BLOCK_INDEX, KEY0 to KEY3, DATA0 to DATA3 (R26, R46). -/
def Reg.droppedWhileBusy : Reg → Bool
  | .id => false
  | .cmd => true
  | .status => false
  | .irqEn => false
  | .blockIndex => true
  | .reserved _ => false
  | .key _ => true
  | .data _ => true

/-- The format CR command of round `r` under each opcode of 0x4 to 0xB (R62), for statements that range over them. -/
def crCommands (rnd : BitVec 4) : List Instr :=
  [.perm rnd, .invPerm rnd, .mix rnd, .invMix rnd, .diff rnd, .invDiff rnd, .roundFwd rnd, .roundInv rnd]

/-- The round operand that names round `r`. -/
def rndOf (r : Fin 10) : BitVec 4 := BitVec.ofNat 4 r.val

/-- What a rule of a format C0 command says of writing its word, the opcode alone, to CMD: `BUSY` while busy; else `NO_KEY` for
a keyed command without a valid key; else it is accepted; and `ILLEGAL_CMD` for a word of that opcode with a must-be-0 bit set
(R60, R160, R171). -/
def submitsC0 (i : Instr) (opc : Nat) (keyed : Bool) : Prop :=
  ∀ s : State,
    (s.busy = true → submit (BitVec.ofNat 32 opc) s = raiseError .busy s) ∧
    (s.busy = false → keyed = true → s.keyValid = false → submit (BitVec.ofNat 32 opc) s = raiseError .noKey s) ∧
    (s.busy = false → (keyed = true → s.keyValid = true) → submit (BitVec.ofNat 32 opc) s = accept i s) ∧
    (s.busy = false → ∀ w : Word, w.toNat % 16 = opc → w.toNat ≠ opc → submit w s = raiseError .illegalCmd s)

/-- The same for a format CR command and its word `(r << 8) OR OPC`: further, `BAD_ROUND` for a word whose must-be-0 bits are 0
and whose round field is 10 to 15 (R60, R61, R160, R171). -/
def submitsCR (command : BitVec 4 → Instr) (opc : Nat) (keyed : Bool) : Prop :=
  ∀ s : State,
    (s.busy = true → ∀ r : Fin 10, submit (BitVec.ofNat 32 (r.val * 256 + opc)) s = raiseError .busy s) ∧
    (s.busy = false → keyed = true → s.keyValid = false →
      ∀ r : Fin 10, submit (BitVec.ofNat 32 (r.val * 256 + opc)) s = raiseError .noKey s) ∧
    (s.busy = false → (keyed = true → s.keyValid = true) →
      ∀ r : Fin 10, submit (BitVec.ofNat 32 (r.val * 256 + opc)) s = accept (command (rndOf r)) s) ∧
    (s.busy = false → ∀ w : Word, w.toNat % 16 = opc → (w.toNat / 4096 ≠ 0 ∨ w.toNat / 16 % 16 ≠ 0) →
      submit w s = raiseError .illegalCmd s) ∧
    (s.busy = false → ∀ w : Word, w.toNat % 16 = opc → w.toNat / 4096 = 0 → w.toNat / 16 % 16 = 0 →
      9 < w.toNat / 256 % 16 → submit w s = raiseError .badRound s)

/-- `D` is the mixed block of `B` under `K`, in exact integers: segment `i` of `D` plus 1 is the product modulo 65537 of segment
`i` of `B` plus 1 and the factor plus 1, where the factor adds `K.seg[i]` to the next segment as it stands then: for `i < 7` the
original one, for `i = 7` the mixed segment 0 (R110, R113). -/
def mixedFrom (D B K : Block) : Prop :=
  (∀ i : Fin 7, (D[i.val]'(by omega)).toNat + 1 =
    ((B[i.val]'(by omega)).toNat + 1) *
      (((B[i.val + 1]'(by omega)).toNat + (K[i.val]'(by omega)).toNat) % 65536 + 1) % 65537) ∧
  (D[7]).toNat + 1 = ((B[7]).toNat + 1) * (((D[0]).toNat + (K[7]).toNat) % 65536 + 1) % 65537

/-- `D` is the diffused block of `B` under `K`, bit by bit: bit `k` of a segment moves up by the rotation amount, modulo 16, and
is XORed with the key segment's bit at its new place (R130, R131). -/
def diffusedFrom (D B K : Block) : Prop :=
  ∀ (i : Fin 8) (k : Fin 16),
    (D[i]).getLsbD ((k.val + (K[i]).toNat % 16) % 16) =
      ((B[i]).getLsbD k.val ^^ (K[i]).getLsbD ((k.val + (K[i]).toNat % 16) % 16))

/-- Every position occurs exactly once in the table (R95). -/
def PermTable.bijective (P : PermTable) : Prop := ∀ v : Fin 128, ∃ b : Fin 128, P[b] = v ∧ ∀ b' : Fin 128, P[b'] = v → b' = b

/-- The end of a completion whose own effect leaves everything but DATA alone (R161): the frame of the eight layer and round
commands, of ENCRYPT and of DECRYPT. -/
def retireWithData (s : State) (D : Block) : State :=
  { s with data := D, pending := none, busy := false, done := true }

/-- The same state but for the key material the host may not read (R22, R24). -/
def sameButKeys (s t : State) : Prop := { s with key := t.key, rk := t.rk } = t

/-- Two outcomes the host cannot tell apart: the same response and the same interrupt level, in states that differ in key
material only; or the same fault. -/
def sameAnswers (o o' : Host.Outcome State Fault Refusal) : Prop :=
  match o, o' with
  | .next t, .next t' => t.resp = t'.resp ∧ t.irq = t'.irq ∧ sameButKeys t t'
  | .fault f, .fault f' => f = f'
  | _, _ => False

end Sys2Proof.Machine
end

