-- ==== Sys2Proof/Certificates/Slice0/Obligations.lean ====
section
/-! DEFINITION. Certificates/Slice0/Obligations.lean: the statements for the provers, grouped by the files of spec/. -/

open Sys2Proof Sys2Proof.Machine

/-! ## 30_encoding.md -/

/-- Words written out from the encodings of R63 and from 95_test_vectors.md V7 decode as the spec says. -/
def Obligations.SpecWordsDecodeAsListed : Prop :=
  decode 0x00000000 = .command .nop ∧ decode 0x00000001 = .command .expandKey ∧
  decode 0x00000306 = .command (.mix 3) ∧ decode 0x0000090B = .command (.roundInv 9) ∧
  decode 0x00000104 = .command (.perm 1) ∧ decode 0x00000008 = .command (.diff 0) ∧
  decode 0x0000000C = .command .zeroize ∧ decode 0x0000000D = .illegalCmd ∧ decode 0x00000012 = .illegalCmd ∧
  decode 0x00000A06 = .badRound ∧ decode 0x00010A06 = .illegalCmd

/-- Decode and encode agree, on words and on bytes in the lane order of R48, for every well-formed command. -/
def Obligations.DecodeOfEncodeIsTheCommand : Prop :=
  ∀ (i : Instr) (rest : List Byte), i.wf = true →
    decode (encode i) = .command i ∧ decodeBytes (wordBytes (encode i) ++ rest) = .word (.command i) rest

/-- R63: a word decodes to a command exactly when it selects that command's match/mask row, its round being the word's bits
11:8; and the word is then the command's own word. -/
def Obligations.DecodeIsTheMaskTable : Prop :=
  ∀ (w : Word) (i : Instr),
    (decode w = .command i ↔ i.row.selects w = true ∧ ∀ r, i.rnd? = some r → r = fieldRnd w) ∧
    (decode w = .command i → encode i = w) ∧
    i.row ∈ opcodeRows

/-- R64: which words are ILLEGAL_CMD, which BAD_ROUND, and which command each other word is, in the word's own digits. -/
def Obligations.DecodeByFields : Prop :=
  ∀ w : Word,
    (decode w = .illegalCmd ↔
      (w.toNat % 16 ∈ [0, 1, 2, 3, 12] ∧ w.toNat / 16 ≠ 0) ∨
      (4 ≤ w.toNat % 16 ∧ w.toNat % 16 ≤ 11 ∧ (w.toNat / 4096 ≠ 0 ∨ w.toNat / 16 % 16 ≠ 0)) ∨
      13 ≤ w.toNat % 16) ∧
    (decode w = .badRound ↔
      4 ≤ w.toNat % 16 ∧ w.toNat % 16 ≤ 11 ∧ w.toNat / 4096 = 0 ∧ w.toNat / 16 % 16 = 0 ∧ 9 < w.toNat / 256 % 16) ∧
    (∀ i, decode w = .command i → i.opcode.toNat = w.toNat % 16 ∧ ∀ r, i.rnd? = some r → r.toNat = w.toNat / 256 % 16)

/-! ## 40_key_schedule.md -/

/-- R80, R82: EXPAND_KEY: written to CMD, its word is dropped with BUSY while busy, is accepted when idle, and with a
must-be-0 bit set is ILLEGAL_CMD; its completion always answers a next state in which RK holds the ten round keys of KEY,
segment by segment, and KEY_VALID is 1; the lifecycle ends (PENDING empty, BUSY 0, DONE 1) and nothing else changes. -/
def Obligations.ExpandKeyDerivesTheRoundKeys : Prop :=
  submitsC0 .expandKey 0x1 false ∧
  ∀ s : State, ∃ R : RoundKeys,
    exec .expandKey s =
      .next { s with rk := R, keyValid := true, pending := none, busy := false, done := true } ∧
    ∀ (r : Fin 10) (i : Fin 8),
      (R[r][i]).toNat = ((s.key[i].toNat ^^^ ((r.val + 1) * s.cfg.ksC.toNat % 65536)) + r.val) % 65536

/-- R81: `expandKey` segment by segment; and with the default `KS_C` the ten round-key segments that one master-key segment
gives are pairwise distinct. -/
def Obligations.RoundKeysDifferAcrossRounds : Prop :=
  (∀ (c : Seg) (K : Block) (r : Fin 10) (i : Fin 8), (expandKey c K)[r][i] = ksSeg c K[i] r) ∧
  ∀ (m : Seg) (r r' : Fin 10), ksSeg 0x9E37 m r = ksSeg 0x9E37 m r' → r = r'

/-! ## 41_permutation.md -/

/-- R90, R91: the seed, and that distinct pairs of a round seed and a block index give distinct initial states. -/
def Obligations.SeedStatesAreDistinct : Prop :=
  ∀ (c : Word) (r r' : Fin 10) (idx idx' : Word),
    (seedState c r idx).toNat = idx.toNat * 4294967296 + (c.toNat ^^^ r.val) ∧
    (seedState c r idx = seedState c r' idx' → r = r' ∧ idx = idx')

/-- R92: one step of the generator multiplies its state and adds, modulo 2^64, and its output is the upper 32 bits. -/
def Obligations.GeneratorStep : Prop :=
  ∀ S : BitVec 64,
    (lcgNext S).toNat = (6364136223846793005 * S.toNat + 1442695040888963407) % 18446744073709551616 ∧
    (lcgOut S).toNat = S.toNat / 4294967296

/-- R93, R95: every permutation the generator gives, for any constant, is the shuffle of the identity with `i` from 127 down to
1: the step of `i` advances the generator, draws `j = (x * (i + 1)) div 2^32` from its output `x`, and swaps entries `i` and `j`;
after the step of 1 the table is the permutation. It is a bijection, and every index drawn is in `0..i`. -/
def Obligations.EveryPermutationIsABijection : Prop :=
  (∀ (c : Word) (r : Fin 10) (idx : Word),
    permTable c r idx = shuffleFrom 127 (seedState c r idx) idTable ∧ (permTable c r idx).bijective) ∧
  (∀ b : Fin 128, idTable[b] = b) ∧
  (∀ (S : BitVec 64) (P : PermTable), shuffleFrom 0 S P = P) ∧
  (∀ (i : Fin 128) (S : BitVec 64) (P : PermTable), 1 ≤ i.val → ∃ (j : Fin 128) (P' : PermTable),
    shuffleFrom i.val S P = shuffleFrom (i.val - 1) (lcgNext S) P' ∧
    j.val = (lcgOut (lcgNext S)).toNat * (i.val + 1) / 4294967296 ∧
    ∀ b : Fin 128, P'[b] = if b = i then P[j] else if b = j then P[i] else P[b]) ∧
  ∀ (x : Word) (i : Nat), drawIndex x i = x.toNat * (i + 1) / 4294967296 ∧ drawIndex x i ≤ i

/-- R98: `applyPerm` moves flat bit `b` to flat position `P[b]`. -/
def Obligations.ApplyPermMovesEachBit : Prop :=
  ∀ (B : Block) (P : PermTable), P.bijective → ∀ b : Fin 128, (applyPerm B P).bit P[b] = B.bit b

/-- R99: `applyInvPerm` gathers bit `b` from position `P[b]`, for any table, and is the inverse of `applyPerm` for a bijection. -/
def Obligations.ApplyInvPermIsTheInverse : Prop :=
  ∀ (B : Block) (P : PermTable),
    (∀ b : Fin 128, (applyInvPerm B P).bit b = B.bit P[b]) ∧
    (P.bijective → applyInvPerm (applyPerm B P) P = B ∧ applyPerm (applyInvPerm B P) P = B)

/-- R100: PERM: written to CMD, its word for each of the ten rounds is dropped with BUSY while busy and accepted when
idle, with a must-be-0 bit set it is ILLEGAL_CMD, and with a round of 10 to 15 BAD_ROUND; its completion always answers a
next state in which DATA is the old block with each bit moved to the position the round's permutation names; the lifecycle
ends (PENDING empty, BUSY 0, DONE 1) and nothing else changes. -/
def Obligations.PermMovesTheBitsOfData : Prop :=
  submitsCR .perm 0x4 false ∧
  ∀ (r : Fin 10) (s : State), ∃ D : Block,
    exec (.perm (rndOf r)) s = .next (retireWithData s D) ∧
    ∀ b : Fin 128, D.bit (permTable s.cfg.permConst r s.blockIndex)[b] = s.data.bit b

/-- R101: INV_PERM: written to CMD, its word for each of the ten rounds is dropped with BUSY while busy and accepted when
idle, with a must-be-0 bit set it is ILLEGAL_CMD, and with a round of 10 to 15 BAD_ROUND; its completion always answers a
next state in which each bit of DATA is the old block's bit at the position the round's permutation names; the lifecycle
ends (PENDING empty, BUSY 0, DONE 1) and nothing else changes. -/
def Obligations.InvPermMovesTheBitsBack : Prop :=
  submitsCR .invPerm 0x5 false ∧
  ∀ (r : Fin 10) (s : State), ∃ D : Block,
    exec (.invPerm (rndOf r)) s = .next (retireWithData s D) ∧
    ∀ b : Fin 128, D.bit b = s.data.bit (permTable s.cfg.permConst r s.blockIndex)[b]

/-! ## 42_mixing.md -/

/-- R110: `mulQ` in exact integers, and its bijectivity in the first argument. -/
def Obligations.MulQIsABijection : Prop :=
  ∀ f : Seg,
    (∀ a : Seg, (mulQ a f).toNat + 1 = (a.toNat + 1) * (f.toNat + 1) % 65537) ∧
    ∀ y : Seg, ∃ a : Seg, mulQ a f = y ∧ ∀ a' : Seg, mulQ a' f = y → a' = a

/-- R111: `invQ(x)` is the unique inverse of `x` modulo 65537 in `1..65536`, for `x` in `1..65536`; and the values R111 lists. -/
def Obligations.InvQIsTheUniqueInverse : Prop :=
  (∀ x : Nat, 1 ≤ x → x ≤ 65536 →
    1 ≤ invQ x ∧ invQ x ≤ 65536 ∧ x * invQ x % 65537 = 1 ∧
    (∀ y : Nat, 1 ≤ y → y ≤ 65536 → x * y % 65537 = 1 → y = invQ x) ∧
    invQ x = x ^ 65535 % 65537) ∧
  invQ 1 = 1 ∧ invQ 2 = 32769 ∧ invQ 3 = 21846 ∧ invQ 65536 = 65536

/-- R112: `divQ` and `mulQ` undo each other in the first argument. -/
def Obligations.DivQInvertsMulQ : Prop :=
  ∀ a f y : Seg,
    (divQ y f).toNat + 1 = (y.toNat + 1) * invQ (f.toNat + 1) % 65537 ∧
    divQ (mulQ a f) f = a ∧ mulQ (divQ y f) f = y

/-- R115: mixing is a bijection of blocks for every round key. -/
def Obligations.MixingIsInvertible : Prop :=
  ∀ B K : Block, invMix (mix B K) K = B ∧ mix (invMix B K) K = B

/-- R113, R116: MIX: written to CMD, its word for each of the ten rounds is dropped with BUSY while busy, rejected with
NO_KEY without a valid key, accepted otherwise when idle, with a must-be-0 bit set it is ILLEGAL_CMD, and with a round of
10 to 15 BAD_ROUND; its completion always answers a next state in which DATA is the old block mixed under RK[r]; the
lifecycle ends (PENDING empty, BUSY 0, DONE 1) and nothing else changes. -/
def Obligations.MixMultipliesTheSegments : Prop :=
  submitsCR .mix 0x6 true ∧
  ∀ (r : Fin 10) (s : State), ∃ D : Block,
    exec (.mix (rndOf r)) s = .next (retireWithData s D) ∧ mixedFrom D s.data s.rk[r]

/-- R117: INV_MIX: written to CMD, its word for each of the ten rounds is dropped with BUSY while busy, rejected with
NO_KEY without a valid key, accepted otherwise when idle, with a must-be-0 bit set it is ILLEGAL_CMD, and with a round of
10 to 15 BAD_ROUND; its completion always answers a next state in which DATA is the unique block that mixing under RK[r]
maps to the old block; the lifecycle ends (PENDING empty, BUSY 0, DONE 1) and nothing else changes. -/
def Obligations.InvMixGivesTheUniquePreimage : Prop :=
  submitsCR .invMix 0x7 true ∧
  ∀ (r : Fin 10) (s : State), ∃ D : Block,
    exec (.invMix (rndOf r)) s = .next (retireWithData s D) ∧ mixedFrom s.data D s.rk[r] ∧
    ∀ D' : Block, mixedFrom s.data D' s.rk[r] → D' = D

/-! ## 43_diffusion.md -/

/-- R130: a rotation moves bit `k` to bit `(k + n) mod 16`; by 0 and by 16 it is the identity. -/
def Obligations.RotationMovesEachBit : Prop :=
  ∀ (x : Seg) (n : Nat), n ≤ 16 →
    (∀ k : Nat, k < 16 → (rotl16 x n).getLsbD ((k + n) % 16) = x.getLsbD k) ∧ (n = 0 ∨ n = 16 → rotl16 x n = x)

/-- R132: the lanes of `invDiff`, and that `diff` and `invDiff` undo each other. -/
def Obligations.DiffusionIsInvertible : Prop :=
  ∀ B K : Block,
    (∀ i : Fin 8, (invDiff B K)[i] = rotl16 (B[i] ^^^ K[i]) (16 - (K[i]).toNat % 16)) ∧
    invDiff (diff B K) K = B ∧ diff (invDiff B K) K = B

/-- R131, R133: DIFF: written to CMD, its word for each of the ten rounds is dropped with BUSY while busy, rejected with
NO_KEY without a valid key, accepted otherwise when idle, with a must-be-0 bit set it is ILLEGAL_CMD, and with a round of
10 to 15 BAD_ROUND; its completion always answers a next state in which each lane of DATA is rotated by RK[r]'s lane
modulo 16 and XORed with that lane; the lifecycle ends (PENDING empty, BUSY 0, DONE 1) and nothing else changes. -/
def Obligations.DiffRotatesAndXorsEachLane : Prop :=
  submitsCR .diff 0x8 true ∧
  ∀ (r : Fin 10) (s : State), ∃ D : Block,
    exec (.diff (rndOf r)) s = .next (retireWithData s D) ∧ diffusedFrom D s.data s.rk[r]

/-- R134: INV_DIFF: written to CMD, its word for each of the ten rounds is dropped with BUSY while busy, rejected with
NO_KEY without a valid key, accepted otherwise when idle, with a must-be-0 bit set it is ILLEGAL_CMD, and with a round of
10 to 15 BAD_ROUND; its completion always answers a next state in which DATA is the block that the diffusion under RK[r]
maps to the old one; the lifecycle ends (PENDING empty, BUSY 0, DONE 1) and nothing else changes. -/
def Obligations.InvDiffUndoesEachLane : Prop :=
  submitsCR .invDiff 0x9 true ∧
  ∀ (r : Fin 10) (s : State), ∃ D : Block,
    exec (.invDiff (rndOf r)) s = .next (retireWithData s D) ∧ diffusedFrom s.data D s.rk[r]

/-! ## 44_round_pipeline.md -/

/-- R141: the backward round and the forward round undo each other, for any round keys, constant and index. -/
def Obligations.BackwardRoundUndoesForwardRound : Prop :=
  ∀ (c : Word) (RK : RoundKeys) (idx : Word) (r : Fin 10) (B : Block),
    roundInv c RK idx B r = applyInvPerm (invMix (invDiff B RK[r]) RK[r]) (permTable c r idx) ∧
    roundInv c RK idx (roundFwd c RK idx B r) r = B ∧ roundFwd c RK idx (roundInv c RK idx B r) r = B

/-- R144: decryption undoes encryption and encryption undoes decryption, for every block, index, constant and round keys. -/
def Obligations.DecryptionUndoesEncryption : Prop :=
  ∀ (c : Word) (RK : RoundKeys) (idx : Word) (B : Block),
    decryptBlock c RK idx (encryptBlock c RK idx B) = B ∧ encryptBlock c RK idx (decryptBlock c RK idx B) = B

/-- R140, R146: ROUND_FWD: written to CMD, its word for each of the ten rounds is dropped with BUSY while busy, rejected
with NO_KEY without a valid key, accepted otherwise when idle, with a must-be-0 bit set it is ILLEGAL_CMD, and with a
round of 10 to 15 BAD_ROUND; its completion always answers a next state in which DATA is the old block permuted, mixed and
diffused for the round, the same state that PERM r, MIX r, DIFF r give in that order; the lifecycle ends (PENDING empty,
BUSY 0, DONE 1) and nothing else changes. -/
def Obligations.RoundFwdIsPermMixDiff : Prop :=
  submitsCR .roundFwd 0xA true ∧
  ∀ (r : Fin 10) (s : State), ∃ D : Block,
    exec (.roundFwd (rndOf r)) s = .next (retireWithData s D) ∧
    D = diff (mix (applyPerm s.data (permTable s.cfg.permConst r s.blockIndex)) s.rk[r]) s.rk[r] ∧
    runCommands [.perm (rndOf r), .mix (rndOf r), .diff (rndOf r)] s = .next (retireWithData s D)

/-- R147: ROUND_INV: written to CMD, its word for each of the ten rounds is dropped with BUSY while busy, rejected with
NO_KEY without a valid key, accepted otherwise when idle, with a must-be-0 bit set it is ILLEGAL_CMD, and with a round of
10 to 15 BAD_ROUND; its completion always answers a next state in which DATA is the backward round of the old block, the
same state that INV_DIFF r, INV_MIX r, INV_PERM r give in that order; the lifecycle ends (PENDING empty, BUSY 0, DONE 1)
and nothing else changes; and after ROUND_FWD r it gives the block back. -/
def Obligations.RoundInvUndoesRoundFwd : Prop :=
  submitsCR .roundInv 0xB true ∧
  ∀ (r : Fin 10) (s : State), ∃ D : Block,
    exec (.roundInv (rndOf r)) s = .next (retireWithData s D) ∧
    D = roundInv s.cfg.permConst s.rk s.blockIndex s.data r ∧
    runCommands [.invDiff (rndOf r), .invMix (rndOf r), .invPerm (rndOf r)] s = .next (retireWithData s D) ∧
    runCommands [.roundFwd (rndOf r), .roundInv (rndOf r)] s = .next (retireWithData s s.data)

/-- R142, R148: ENCRYPT: written to CMD, its word is dropped with BUSY while busy, rejected with NO_KEY without a valid
key, accepted otherwise when idle, and with a must-be-0 bit set is ILLEGAL_CMD; its completion always answers a next state
in which DATA is the encrypted block, the same state that ROUND_FWD 0 to ROUND_FWD 9 give in order; the lifecycle ends
(PENDING empty, BUSY 0, DONE 1) and nothing else changes. -/
def Obligations.EncryptIsTheTenForwardRounds : Prop :=
  submitsC0 .encrypt 0x2 true ∧
  ∀ s : State, ∃ D : Block,
    exec .encrypt s = .next (retireWithData s D) ∧ D = encryptBlock s.cfg.permConst s.rk s.blockIndex s.data ∧
    runCommands [.roundFwd 0, .roundFwd 1, .roundFwd 2, .roundFwd 3, .roundFwd 4, .roundFwd 5, .roundFwd 6, .roundFwd 7,
      .roundFwd 8, .roundFwd 9] s = .next (retireWithData s D)

/-- R143, R149: DECRYPT: written to CMD, its word is dropped with BUSY while busy, rejected with NO_KEY without a valid
key, accepted otherwise when idle, and with a must-be-0 bit set is ILLEGAL_CMD; its completion always answers a next state
in which DATA is the decrypted block, the same state that ROUND_INV 9 down to ROUND_INV 0 give; the lifecycle ends
(PENDING empty, BUSY 0, DONE 1) and nothing else changes; and after ENCRYPT it gives the block back. -/
def Obligations.DecryptIsTheTenBackwardRounds : Prop :=
  submitsC0 .decrypt 0x3 true ∧
  ∀ s : State, ∃ D : Block,
    exec .decrypt s = .next (retireWithData s D) ∧ D = decryptBlock s.cfg.permConst s.rk s.blockIndex s.data ∧
    runCommands [.roundInv 9, .roundInv 8, .roundInv 7, .roundInv 6, .roundInv 5, .roundInv 4, .roundInv 3, .roundInv 2,
      .roundInv 1, .roundInv 0] s = .next (retireWithData s D) ∧
    runCommands [.encrypt, .decrypt] s = .next (retireWithData s s.data)

/-! ## 45_control.md -/

/-- R160: the acceptance or rejection of a word written to CMD, the checks in order. -/
def Obligations.SubmitChecksInOrder : Prop :=
  ∀ (w : Word) (s : State),
    (s.busy = true → submit w s = raiseError .busy s) ∧
    (s.busy = false → decode w = .illegalCmd → submit w s = raiseError .illegalCmd s) ∧
    (s.busy = false → decode w = .badRound → submit w s = raiseError .badRound s) ∧
    (∀ i, s.busy = false → decode w = .command i →
      i ∈ [.encrypt, .decrypt] ++ (crCommands (fieldRnd w)).drop 2 → s.keyValid = false →
      submit w s = raiseError .noKey s) ∧
    (∀ i, s.busy = false → decode w = .command i →
      i ∉ [.encrypt, .decrypt] ++ (crCommands (fieldRnd w)).drop 2 ∨ s.keyValid = true →
      submit w s = { s with pending := some i, busy := true, done := false })

/-- R162: ZEROIZE: written to CMD, its word is dropped with BUSY while busy, is accepted when idle, and with a must-be-0
bit set is ILLEGAL_CMD; its completion always answers a next state in which KEY, RK, DATA, BLOCK_INDEX and KEY_VALID are
0; the lifecycle ends (PENDING empty, BUSY 0, DONE 1) and nothing else changes; and every keyed command submitted then is
rejected with NO_KEY. -/
def Obligations.ZeroizeClearsKeysAndData : Prop :=
  submitsC0 .zeroize 0xC false ∧
  ∀ s : State, ∃ t : State,
    exec .zeroize s = .next t ∧
    t = { s with key := Block.zero, rk := RoundKeys.zero, data := Block.zero, blockIndex := 0, keyValid := false,
                 pending := none, busy := false, done := true } ∧
    ∀ (w : Word) (i : Instr), decode w = .command i → needsKey i = true → submit w t = raiseError .noKey t

/-- R163: NOP: written to CMD, its word is dropped with BUSY while busy, is accepted when idle, and with a must-be-0 bit
set is ILLEGAL_CMD; its completion always answers a next state: the lifecycle ends (PENDING empty, BUSY 0, DONE 1) and
nothing else changes. -/
def Obligations.NopRunsTheLifecycleOnly : Prop :=
  submitsC0 .nop 0x0 false ∧
  ∀ s : State, exec .nop s = .next { s with pending := none, busy := false, done := true }

/-- The engine's turn runs exactly the pending command: with an empty agenda, and with the engine's turn first in it. -/
def Obligations.StepRunsThePendingCommand : Prop :=
  ∀ (s : State) (i : Instr) (es : List Event), s.resetLine = false → s.pending = some i →
    (s.agenda = [] → step s = exec i s) ∧ (s.agenda = .engine :: es → step s = exec i { s with agenda := es })

/-- The next step runs exactly the instruction that a placed word decodes to (log entry 4). -/
def Obligations.PlacedWordRunsNext : Prop :=
  ∀ (s : State) (nbits w : Nat) (i : Instr), decodeTableWord nbits w = some i →
    step (s.withFetchWord nbits w) = exec i { accept i s with resetLine := false }

/-- R160 and R161 together: a command written to CMD is accepted in that step, and the engine's turn after it runs exactly it
on the state that acceptance left. -/
def Obligations.AcceptedCommandRunsAtTheEnginesTurn : Prop :=
  ∀ (s : State) (i : Instr) (es : List Event),
    i.wf = true → s.resetLine = false → s.busy = false → (needsKey i = true → s.keyValid = true) →
    s.agenda = .access (Config.writeOf s.cfg .cmd (encode i)) :: .engine :: es →
    ∃ t : State,
      step s = .next t ∧
      t = { s with pending := some i, busy := true, done := false, resp := .writeDone, agenda := .engine :: es } ∧
      step t = exec i { t with agenda := es }

/-- A format CR command whose round field names no round has only the effect of its error; PENDING never holds one
(log entry 6). -/
def Obligations.OutOfRangeRoundOnlyRecordsBadRound : Prop :=
  ∀ (rnd : BitVec 4) (i : Instr) (s : State), 9 < rnd.toNat → i ∈ crCommands rnd →
    exec i s = .next (raiseError .badRound s) ∧ i.wf = false

/-! ## 10_state.md -/

/-- R36: every piece of state after reset, for every CORE that can be built; what each register reads; and no interrupt. -/
def Obligations.ResetLeavesEverythingZero : Prop :=
  ∀ c : Config,
    (State.resetWith c).data = Block.zero ∧ (State.resetWith c).key = Block.zero ∧ (State.resetWith c).blockIndex = 0 ∧
    (State.resetWith c).rk = RoundKeys.zero ∧ statusWord (State.resetWith c) = 0 ∧ irqEnWord (State.resetWith c) = 0 ∧
    (State.resetWith c).pending = none ∧ (State.resetWith c).irq = false ∧ (State.resetWith c).cfg = c ∧
    ∀ g : Reg, readReg g (State.resetWith c) = if g = .id then 0x444C4E43 else 0

/-- R37: the four invariants hold at reset, and so does the engine's invariant. -/
def Obligations.InvariantsHoldAtReset : Prop :=
  ∀ c : Config, (State.resetWith c).Inv ∧ (State.resetWith c).EngineInv

/-- R37: every step of the CORE preserves the four invariants, from every state that meets them; and they hold at reset. -/
def Obligations.EveryStepKeepsTheInvariants : Prop :=
  (∀ s t : State, s.Inv → step s = .next t → t.Inv) ∧ ∀ c : Config, (State.resetWith c).Inv

/-- PENDING holds only legal commands, and the reserved error codes are never recorded, in every step. -/
def Obligations.EveryStepKeepsTheEngineInvariant : Prop :=
  ∀ s t : State, s.EngineInv → step s = .next t → t.EngineInv

/-- R25: the bits of STATUS as read; what a write does to each of them; and that it reads 0 after reset. -/
def Obligations.StatusBits : Prop :=
  ∀ (s : State) (v : Word) (k : Nat),
    (readReg .status s).getLsbD k =
      (if k = 0 then s.busy else if k = 1 then s.keyValid else if k = 2 then s.done else if k = 3 then s.err
       else if k < 8 then s.errCode.getLsbD (k - 4) else false) ∧
    (readReg .status (writeReg .status v s)).getLsbD k =
      (if k = 2 then s.done && !v.getLsbD 2 else if 3 ≤ k ∧ k < 8 then (readReg .status s).getLsbD k && !v.getLsbD 3
       else (readReg .status s).getLsbD k) ∧
    readReg .status (State.resetWith s.cfg) = 0

/-- R20, R22, R24, R27: which events other than reset can change DATA, KEY, BLOCK_INDEX and RK, and which can set and which can
clear KEY_VALID: EXPAND_KEY's completion sets it; an accepted KEY write and ZEROIZE's completion clear it. `e` is the turn that
is taken. -/
def Obligations.RegistersChangeOnlyByTheirWriters : Prop :=
  ∀ (s t : State) (e : Event), turn e s = .next t → s.resetLine = false → e ≠ .resetAssert →
    (t.data ≠ s.data →
      (s.busy = false ∧ ∃ w v, e = .access (Config.writeOf s.cfg (.data w) v)) ∨
      (e = .engine ∧ ∃ i, s.pending = some i ∧ i ≠ .nop ∧ i ≠ .expandKey)) ∧
    (t.key ≠ s.key →
      (s.busy = false ∧ ∃ w v, e = .access (Config.writeOf s.cfg (.key w) v)) ∨
      (e = .engine ∧ s.pending = some .zeroize)) ∧
    (t.blockIndex ≠ s.blockIndex →
      (s.busy = false ∧ ∃ v, e = .access (Config.writeOf s.cfg .blockIndex v)) ∨
      (e = .engine ∧ s.pending = some .zeroize)) ∧
    (t.rk ≠ s.rk → e = .engine ∧ (s.pending = some .expandKey ∨ s.pending = some .zeroize)) ∧
    (s.keyValid = false → t.keyValid = true → e = .engine ∧ s.pending = some .expandKey) ∧
    (s.keyValid = true → t.keyValid = false →
      (s.busy = false ∧ ∃ w v, e = .access (Config.writeOf s.cfg (.key w) v)) ∨
      (e = .engine ∧ s.pending = some .zeroize))

/-- R22, R24: nothing the host sees of an access, nor the interrupt, depends on KEY or RK, and an access carries no key
material into any other part of the state. -/
def Obligations.HostCannotReadKeyMaterial : Prop :=
  ∀ (a : Access) (s s' : State), sameButKeys s s' →
    s.irq = s'.irq ∧ sameAnswers (hostAccess a s) (hostAccess a s')

/-! ## 20_memory.md -/

/-- R44, R45: what a supported read returns at every offset of the window, and that it changes nothing else. -/
def Obligations.ReadsReturnTheRegistersAndChangeNothing : Prop :=
  ∀ (s : State) (off : Nat) (v : Word), s.resetLine = false →
    (off = 0x00 ∧ v = 0x444C4E43) ∨ (off = 0x04 ∧ v = 0) ∨
    (off = 0x08 ∧ v = (s.errCode ++ BitVec.ofBool s.err ++ BitVec.ofBool s.done ++ BitVec.ofBool s.keyValid ++
      BitVec.ofBool s.busy).setWidth 32) ∨
    (off = 0x0C ∧ v = (BitVec.ofBool s.errIe ++ BitVec.ofBool s.doneIe).setWidth 32) ∨
    (off = 0x10 ∧ v = s.blockIndex) ∨ (off ∈ [0x14, 0x18, 0x1C, 0x20, 0x24, 0x28, 0x2C] ∧ v = 0) ∨
    (off = 0x30 ∧ v = s.data[1] ++ s.data[0]) ∨ (off = 0x34 ∧ v = s.data[3] ++ s.data[2]) ∨
    (off = 0x38 ∧ v = s.data[5] ++ s.data[4]) ∨ (off = 0x3C ∧ v = s.data[7] ++ s.data[6]) →
    hostAccess ⟨s.cfg.coreBase + off, 4, .read⟩ s = .next { s with resp := .readData v }

/-- R46: what a supported write does at every register, by offset; `t` is the state after it, but for the response. -/
def Obligations.WritesDoWhatTheMapSays : Prop :=
  ∀ (s : State) (off : Nat) (v : Word) (t : State), s.resetLine = false →
    (off = 0x08 ∧ t = { s with done := s.done && !v.getLsbD 2, err := s.err && !v.getLsbD 3,
                               errCode := if v.getLsbD 3 then 0 else s.errCode }) ∨
    (off = 0x0C ∧ t = { s with doneIe := v.getLsbD 0, errIe := v.getLsbD 1 }) ∨
    (off ∈ [0x00, 0x14, 0x18, 0x1C] ∧ t = s) ∨
    (off ∈ [0x04, 0x10, 0x20, 0x24, 0x28, 0x2C, 0x30, 0x34, 0x38, 0x3C] ∧ s.busy = true ∧ t = raiseError .busy s) ∨
    (off = 0x04 ∧ s.busy = false ∧ t = submit v s) ∨
    (off = 0x10 ∧ s.busy = false ∧ t = { s with blockIndex := v }) ∨
    (s.busy = false ∧ ∃ w : Fin 4, off = 0x20 + 4 * w.val ∧ t = { s with key := s.key.setWord w v, keyValid := false }) ∨
    (s.busy = false ∧ ∃ w : Fin 4, off = 0x30 + 4 * w.val ∧ t = { s with data := s.data.setWord w v }) →
    hostAccess ⟨s.cfg.coreBase + off, 4, .write v⟩ s = .next { t with resp := .writeDone }

/-- R47, R8: bit `j` of register word `w` is flat block bit `32w + j`, and so is bit `32w + j` of the 128-bit integer; writing
a word changes those bits only. -/
def Obligations.RegisterWordsAreFlatBits : Prop :=
  ∀ (B : Block) (w : Fin 4) (v : Word) (b : Fin 128),
    (∀ j : Fin 32, (B.word w).getLsbD j.val = B.bit ⟨32 * w.val + j.val, by omega⟩) ∧
    B.flat.getLsbD b.val = B.bit b ∧
    (B.setWord w v).bit b = (if b.val / 32 = w.val then v.getLsbD (b.val % 32) else B.bit b)

/-- R48: byte lane `k` of a register is its bits `8k+7 : 8k`, and the four lanes in address order are the register. -/
def Obligations.ByteLanesAreLittleEndian : Prop :=
  ∀ (w : Word) (g : Reg) (s : State) (k : Fin 4),
    (∀ j : Fin 8, (regByte g k s).getLsbD j.val = (readReg g s).getLsbD (8 * k.val + j.val)) ∧
    wordOfBytes (byteLane w 0) (byteLane w 1) (byteLane w 2) (byteLane w 3) = w

/-- Outside reset and while idle, four writes of DATA0 to DATA3 load the whole block into DATA, and nothing else changes but the
response; four writes of KEY0 to KEY3 load the whole key into KEY and clear KEY_VALID, and nothing else changes but the response
(20_memory.md R46, R49, 10_state.md R22, 30_encoding.md R66). -/
def Obligations.FourWritesLoadABlock : Prop :=
  ∀ (s : State) (B : Block), s.resetLine = false → s.busy = false →
    runTurns (HostLine.expand s.cfg (.ldblk B)) s = .next { s with data := B, resp := .writeDone } ∧
    runTurns (HostLine.expand s.cfg (.ldkey B)) s = .next { s with key := B, keyValid := false, resp := .writeDone }

/-- An access that begins in the window and is not 32 bits wide, or not at a multiple of 4, gets the bus error response, whose
read data is zero; no other part of the state changes (20_memory.md R43). The model's choices in it: the machine goes on with a
response that names the access, and does not stop (log entry 7); an access that begins in the window and runs past its end is
answered in the same way (log entry 11). -/
def Obligations.UnsupportedAccessGetsABusError : Prop :=
  ∀ (s : State) (a : Access), s.resetLine = false → s.cfg.coreBase ≤ a.addr → a.addr < s.cfg.coreBase + 64 →
    (a.size ≠ 4 ∨ (a.addr - s.cfg.coreBase) % 4 ≠ 0) →
    hostAccess a s = .next { s with resp := .busError a } ∧ (BusResp.busError a).data = 0

/-- An access that begins outside the 64-byte window is no access of the CORE's (log entry 8). -/
def Obligations.AccessOutsideTheWindowFaults : Prop :=
  ∀ (s : State) (a : Access), a.addr < s.cfg.coreBase ∨ s.cfg.coreBase + 64 ≤ a.addr →
    hostAccess a s = .fault (.outsideWindow a)

/-! ## 60_exceptions.md -/

/-- R172: the first error since ERR was cleared is kept; an error changes nothing else; and the codes R170
lists. -/
def Obligations.FirstErrorIsKept : Prop :=
  ∀ (c : ErrCode) (s : State),
    (s.err = true → raiseError c s = s) ∧
    (s.err = false → raiseError c s = { s with err := true, errCode := c.code }) ∧
    (c, c.code) ∈ [(ErrCode.illegalCmd, 1), (ErrCode.badRound, 2), (ErrCode.noKey, 3), (ErrCode.busy, 4),
      (ErrCode.mixNotInvertible, 5)]

/-- R176: the interrupt output, in terms of the words the host reads from STATUS and IRQ_EN. -/
def Obligations.InterruptLevel : Prop :=
  ∀ s : State, s.irq =
    (((readReg .status s).getLsbD 2 && (readReg .irqEn s).getLsbD 0) ||
     ((readReg .status s).getLsbD 3 && (readReg .irqEn s).getLsbD 1))

/-- R178: a host write and a completion of the same cycle may be ordered either way. A write of CMD, BLOCK_INDEX, KEY or DATA
first is dropped with BUSY, and the completion is as it would have been; after the completion it is taken. Any write of STATUS
with bit 2 set, written first, does not touch the completion's DONE; after it, it clears it; ERR and ERR_CODE are cleared by its
bit 3 in both orders. -/
def Obligations.SameCycleEitherOrder : Prop :=
  ∀ (s t : State) (i : Instr) (g : Reg) (v : Word),
    s.Inv → s.PendingLegal → s.resetLine = false → s.pending = some i → exec i s = .next t →
    (g.droppedWhileBusy = true →
      runTurns [.access (Config.writeOf s.cfg g v), .engine] s =
        .next { t with err := true, errCode := if s.err then s.errCode else 4, resp := .writeDone } ∧
      runTurns [.engine, .access (Config.writeOf s.cfg g v)] s = .next { writeReg g v t with resp := .writeDone } ∧
      t.busy = false) ∧
    (v.getLsbD 2 = true →
      runTurns [.access (Config.writeOf s.cfg .status v), .engine] s =
        .next { t with done := true, err := s.err && !v.getLsbD 3, errCode := if v.getLsbD 3 then 0 else s.errCode,
                       resp := .writeDone } ∧
      runTurns [.engine, .access (Config.writeOf s.cfg .status v)] s =
        .next { t with done := false, err := s.err && !v.getLsbD 3, errCode := if v.getLsbD 3 then 0 else s.errCode,
                       resp := .writeDone })

/-! ## 70_reset_and_hazards.md -/

/-- Whatever was pending, and whatever happens while the reset input is asserted (accesses, engine turns, further assertions),
every piece of state has its reset value when it is released, so the pending command never completes; the parameters stay
(70_reset_and_hazards.md R190, R191, R193). The model's choice in it: the edges of the reset input are turns, the turns still to
come are kept, and the last response is cleared (log entry 12). -/
def Obligations.ResetAbortsEverything : Prop :=
  ∀ (s : State) (es : List Event),
    (∀ e ∈ es, e = .engine ∨ e = .resetAssert ∨ ∃ a : Access, e = .access a ∧ a.inWindow s.cfg) →
    runTurns (.resetAssert :: es ++ [.resetRelease]) s = .next { State.resetWith s.cfg with agenda := s.agenda }

/-- An access while the reset input is asserted is ignored: a read returns zero, a write has no effect, and the interrupt is
deasserted (70_reset_and_hazards.md R192). The model's choices in it: an unsupported access gets no bus error either (log entry
10, from 93_implementation_defined.md I13); every register is held at its reset value and the agenda is kept (log entry 12). -/
def Obligations.AccessesDuringResetAreIgnored : Prop :=
  ∀ (s : State) (a : Access), s.resetLine = true → a.inWindow s.cfg →
    ∃ t : State, hostAccess a s = .next t ∧ t.resp.data = 0 ∧ t.resp ≠ .busError a ∧ t.irq = false ∧
      t = { State.resetWith s.cfg with resetLine := true, agenda := s.agenda, resp := t.resp }

/-- R193: no step changes the parameters. -/
def Obligations.NoStepChangesTheParameters : Prop :=
  ∀ s t : State, step s = .next t → t.cfg = s.cfg

/-- R203: after a write of any KEY word every keyed command is rejected with NO_KEY, and RK keeps the old round keys. -/
def Obligations.KeyWriteLocksTheRoundKeys : Prop :=
  ∀ (s t : State) (w : Fin 4) (v x : Word) (i : Instr),
    s.resetLine = false → s.busy = false →
    hostAccess (Config.writeOf s.cfg (.key w) v) s = .next t → decode x = .command i → needsKey i = true →
    t.keyValid = false ∧ t.rk = s.rk ∧ submit x t = raiseError .noKey t

/-- R161: host accesses while a command is pending, however many, change nothing the completion reads. -/
def Obligations.CompletionReadsTheAcceptedValues : Prop :=
  ∀ (es : List Event) (s t : State),
    s.busy = true → s.resetLine = false → (∀ e ∈ es, ∃ a : Access, e = .access a) → runTurns es s = .next t →
    t.busy = true ∧ t.pending = s.pending ∧ t.data = s.data ∧ t.key = s.key ∧ t.rk = s.rk ∧
    t.blockIndex = s.blockIndex ∧ t.keyValid = s.keyValid ∧ t.cfg = s.cfg

/-- Every accepted command completes: once the turns still to come are used up, the engine has run, and no command is pending
(45_control.md R161, 70_reset_and_hazards.md R206). The model's choice in it: the turns still to come are a list, and when it is
empty the engine moves (log entry 1). -/
def Obligations.EveryAcceptedCommandCompletes : Prop :=
  ∀ s : State, s.EngineInv → s.resetLine = false →
    (∀ e ∈ s.agenda, e = .engine ∨ ∃ a : Access, e = .access a ∧ a.inWindow s.cfg) →
    ∃ t : State, Sys2Proof.core.run (s.agenda.length + 1) s = .next t ∧ t.pending = none ∧ t.busy = false ∧ t.agenda = []

/-- R202: the safe handshake. From an idle CORE: clear DONE and ERR, write a command word, then any mixture of STATUS reads and
engine turns. It never stops. If ERR is seen the word was rejected with that code, DATA is unchanged and BUSY and DONE are 0. If
DONE is seen without ERR the command was accepted and has completed. Until one of the two is seen, DATA holds the old block; and
once the engine has moved, one of them is seen. -/
def Obligations.SafeHandshake : Prop :=
  ∀ (s : State) (w : Word) (es : List Event),
    s.Inv → s.busy = false → s.resetLine = false →
    (∀ e ∈ es, e = .engine ∨ e = rdEvent s.cfg .status) →
    ∃ u : State,
      runTurns (HostLine.expand s.cfg .clr ++ wrEvent s.cfg .cmd w :: es) s = .next u ∧
      (u.err = true → ∃ c : ErrCode, checkWord w s = .error c ∧ u.errCode = c.code ∧ u.data = s.data ∧ u.busy = false ∧
        u.done = false) ∧
      (u.err = false → u.done = true → ∃ (i : Instr) (t : State), checkWord w s = .ok i ∧
        exec i s = .next t ∧ u.data = t.data ∧ u.rk = t.rk ∧ u.keyValid = t.keyValid) ∧
      (u.err = false → u.done = false → u.data = s.data) ∧
      (.engine ∈ es → u.err = true ∨ u.done = true)
end

