-- ==== Sys2Proof/Laws/State.lean ====
section
/-! SUPPORT. Laws/State.lean: one lemma per field for each shared update of the state, so that no later proof unfolds a record
update. -/

namespace Sys2Proof.Machine

section
variable (s : State)

@[simp] theorem ackDone_cfg : (ackDone s).cfg = s.cfg := rfl
@[simp] theorem ackDone_data : (ackDone s).data = s.data := rfl
@[simp] theorem ackDone_key : (ackDone s).key = s.key := rfl
@[simp] theorem ackDone_blockIndex : (ackDone s).blockIndex = s.blockIndex := rfl
@[simp] theorem ackDone_rk : (ackDone s).rk = s.rk := rfl
@[simp] theorem ackDone_busy : (ackDone s).busy = s.busy := rfl
@[simp] theorem ackDone_keyValid : (ackDone s).keyValid = s.keyValid := rfl
@[simp] theorem ackDone_done : (ackDone s).done = false := rfl
@[simp] theorem ackDone_err : (ackDone s).err = s.err := rfl
@[simp] theorem ackDone_errCode : (ackDone s).errCode = s.errCode := rfl
@[simp] theorem ackDone_doneIe : (ackDone s).doneIe = s.doneIe := rfl
@[simp] theorem ackDone_errIe : (ackDone s).errIe = s.errIe := rfl
@[simp] theorem ackDone_pending : (ackDone s).pending = s.pending := rfl
@[simp] theorem ackDone_resetLine : (ackDone s).resetLine = s.resetLine := rfl
@[simp] theorem ackDone_agenda : (ackDone s).agenda = s.agenda := rfl
@[simp] theorem ackDone_resp : (ackDone s).resp = s.resp := rfl

end

section
variable (s : State)

@[simp] theorem ackErr_cfg : (ackErr s).cfg = s.cfg := rfl
@[simp] theorem ackErr_data : (ackErr s).data = s.data := rfl
@[simp] theorem ackErr_key : (ackErr s).key = s.key := rfl
@[simp] theorem ackErr_blockIndex : (ackErr s).blockIndex = s.blockIndex := rfl
@[simp] theorem ackErr_rk : (ackErr s).rk = s.rk := rfl
@[simp] theorem ackErr_busy : (ackErr s).busy = s.busy := rfl
@[simp] theorem ackErr_keyValid : (ackErr s).keyValid = s.keyValid := rfl
@[simp] theorem ackErr_done : (ackErr s).done = s.done := rfl
@[simp] theorem ackErr_err : (ackErr s).err = false := rfl
@[simp] theorem ackErr_errCode : (ackErr s).errCode = 0 := rfl
@[simp] theorem ackErr_doneIe : (ackErr s).doneIe = s.doneIe := rfl
@[simp] theorem ackErr_errIe : (ackErr s).errIe = s.errIe := rfl
@[simp] theorem ackErr_pending : (ackErr s).pending = s.pending := rfl
@[simp] theorem ackErr_resetLine : (ackErr s).resetLine = s.resetLine := rfl
@[simp] theorem ackErr_agenda : (ackErr s).agenda = s.agenda := rfl
@[simp] theorem ackErr_resp : (ackErr s).resp = s.resp := rfl

end

section
variable (i : Instr) (s : State)

@[simp] theorem accept_cfg : (accept i s).cfg = s.cfg := rfl
@[simp] theorem accept_data : (accept i s).data = s.data := rfl
@[simp] theorem accept_key : (accept i s).key = s.key := rfl
@[simp] theorem accept_blockIndex : (accept i s).blockIndex = s.blockIndex := rfl
@[simp] theorem accept_rk : (accept i s).rk = s.rk := rfl
@[simp] theorem accept_busy : (accept i s).busy = true := rfl
@[simp] theorem accept_keyValid : (accept i s).keyValid = s.keyValid := rfl
@[simp] theorem accept_done : (accept i s).done = false := rfl
@[simp] theorem accept_err : (accept i s).err = s.err := rfl
@[simp] theorem accept_errCode : (accept i s).errCode = s.errCode := rfl
@[simp] theorem accept_doneIe : (accept i s).doneIe = s.doneIe := rfl
@[simp] theorem accept_errIe : (accept i s).errIe = s.errIe := rfl
@[simp] theorem accept_pending : (accept i s).pending = some i := rfl
@[simp] theorem accept_resetLine : (accept i s).resetLine = s.resetLine := rfl
@[simp] theorem accept_agenda : (accept i s).agenda = s.agenda := rfl
@[simp] theorem accept_resp : (accept i s).resp = s.resp := rfl

end

section
variable (s : State)

@[simp] theorem retire_cfg : (retire s).cfg = s.cfg := rfl
@[simp] theorem retire_data : (retire s).data = s.data := rfl
@[simp] theorem retire_key : (retire s).key = s.key := rfl
@[simp] theorem retire_blockIndex : (retire s).blockIndex = s.blockIndex := rfl
@[simp] theorem retire_rk : (retire s).rk = s.rk := rfl
@[simp] theorem retire_busy : (retire s).busy = false := rfl
@[simp] theorem retire_keyValid : (retire s).keyValid = s.keyValid := rfl
@[simp] theorem retire_done : (retire s).done = true := rfl
@[simp] theorem retire_err : (retire s).err = s.err := rfl
@[simp] theorem retire_errCode : (retire s).errCode = s.errCode := rfl
@[simp] theorem retire_doneIe : (retire s).doneIe = s.doneIe := rfl
@[simp] theorem retire_errIe : (retire s).errIe = s.errIe := rfl
@[simp] theorem retire_pending : (retire s).pending = none := rfl
@[simp] theorem retire_resetLine : (retire s).resetLine = s.resetLine := rfl
@[simp] theorem retire_agenda : (retire s).agenda = s.agenda := rfl
@[simp] theorem retire_resp : (retire s).resp = s.resp := rfl

end

section
variable (B : Block) (s : State)

@[simp] theorem setData_cfg : (setData B s).cfg = s.cfg := rfl
@[simp] theorem setData_data : (setData B s).data = B := rfl
@[simp] theorem setData_key : (setData B s).key = s.key := rfl
@[simp] theorem setData_blockIndex : (setData B s).blockIndex = s.blockIndex := rfl
@[simp] theorem setData_rk : (setData B s).rk = s.rk := rfl
@[simp] theorem setData_busy : (setData B s).busy = s.busy := rfl
@[simp] theorem setData_keyValid : (setData B s).keyValid = s.keyValid := rfl
@[simp] theorem setData_done : (setData B s).done = s.done := rfl
@[simp] theorem setData_err : (setData B s).err = s.err := rfl
@[simp] theorem setData_errCode : (setData B s).errCode = s.errCode := rfl
@[simp] theorem setData_doneIe : (setData B s).doneIe = s.doneIe := rfl
@[simp] theorem setData_errIe : (setData B s).errIe = s.errIe := rfl
@[simp] theorem setData_pending : (setData B s).pending = s.pending := rfl
@[simp] theorem setData_resetLine : (setData B s).resetLine = s.resetLine := rfl
@[simp] theorem setData_agenda : (setData B s).agenda = s.agenda := rfl
@[simp] theorem setData_resp : (setData B s).resp = s.resp := rfl

end

section
variable (v : Word) (s : State)

@[simp] theorem writeIrqEn_cfg : (writeIrqEn v s).cfg = s.cfg := rfl
@[simp] theorem writeIrqEn_data : (writeIrqEn v s).data = s.data := rfl
@[simp] theorem writeIrqEn_key : (writeIrqEn v s).key = s.key := rfl
@[simp] theorem writeIrqEn_blockIndex : (writeIrqEn v s).blockIndex = s.blockIndex := rfl
@[simp] theorem writeIrqEn_rk : (writeIrqEn v s).rk = s.rk := rfl
@[simp] theorem writeIrqEn_busy : (writeIrqEn v s).busy = s.busy := rfl
@[simp] theorem writeIrqEn_keyValid : (writeIrqEn v s).keyValid = s.keyValid := rfl
@[simp] theorem writeIrqEn_done : (writeIrqEn v s).done = s.done := rfl
@[simp] theorem writeIrqEn_err : (writeIrqEn v s).err = s.err := rfl
@[simp] theorem writeIrqEn_errCode : (writeIrqEn v s).errCode = s.errCode := rfl
@[simp] theorem writeIrqEn_doneIe : (writeIrqEn v s).doneIe = v.getLsbD 0 := rfl
@[simp] theorem writeIrqEn_errIe : (writeIrqEn v s).errIe = v.getLsbD 1 := rfl
@[simp] theorem writeIrqEn_pending : (writeIrqEn v s).pending = s.pending := rfl
@[simp] theorem writeIrqEn_resetLine : (writeIrqEn v s).resetLine = s.resetLine := rfl
@[simp] theorem writeIrqEn_agenda : (writeIrqEn v s).agenda = s.agenda := rfl
@[simp] theorem writeIrqEn_resp : (writeIrqEn v s).resp = s.resp := rfl

end

section
variable (s : State)

@[simp] theorem loadRoundKeys_cfg : (loadRoundKeys s).cfg = s.cfg := rfl
@[simp] theorem loadRoundKeys_data : (loadRoundKeys s).data = s.data := rfl
@[simp] theorem loadRoundKeys_key : (loadRoundKeys s).key = s.key := rfl
@[simp] theorem loadRoundKeys_blockIndex : (loadRoundKeys s).blockIndex = s.blockIndex := rfl
@[simp] theorem loadRoundKeys_rk : (loadRoundKeys s).rk = expandKey s.cfg.ksC s.key := rfl
@[simp] theorem loadRoundKeys_busy : (loadRoundKeys s).busy = s.busy := rfl
@[simp] theorem loadRoundKeys_keyValid : (loadRoundKeys s).keyValid = true := rfl
@[simp] theorem loadRoundKeys_done : (loadRoundKeys s).done = s.done := rfl
@[simp] theorem loadRoundKeys_err : (loadRoundKeys s).err = s.err := rfl
@[simp] theorem loadRoundKeys_errCode : (loadRoundKeys s).errCode = s.errCode := rfl
@[simp] theorem loadRoundKeys_doneIe : (loadRoundKeys s).doneIe = s.doneIe := rfl
@[simp] theorem loadRoundKeys_errIe : (loadRoundKeys s).errIe = s.errIe := rfl
@[simp] theorem loadRoundKeys_pending : (loadRoundKeys s).pending = s.pending := rfl
@[simp] theorem loadRoundKeys_resetLine : (loadRoundKeys s).resetLine = s.resetLine := rfl
@[simp] theorem loadRoundKeys_agenda : (loadRoundKeys s).agenda = s.agenda := rfl
@[simp] theorem loadRoundKeys_resp : (loadRoundKeys s).resp = s.resp := rfl

end

section
variable (s : State)

@[simp] theorem clearKeysAndData_cfg : (clearKeysAndData s).cfg = s.cfg := rfl
@[simp] theorem clearKeysAndData_data : (clearKeysAndData s).data = Block.zero := rfl
@[simp] theorem clearKeysAndData_key : (clearKeysAndData s).key = Block.zero := rfl
@[simp] theorem clearKeysAndData_blockIndex : (clearKeysAndData s).blockIndex = 0 := rfl
@[simp] theorem clearKeysAndData_rk : (clearKeysAndData s).rk = RoundKeys.zero := rfl
@[simp] theorem clearKeysAndData_busy : (clearKeysAndData s).busy = s.busy := rfl
@[simp] theorem clearKeysAndData_keyValid : (clearKeysAndData s).keyValid = false := rfl
@[simp] theorem clearKeysAndData_done : (clearKeysAndData s).done = s.done := rfl
@[simp] theorem clearKeysAndData_err : (clearKeysAndData s).err = s.err := rfl
@[simp] theorem clearKeysAndData_errCode : (clearKeysAndData s).errCode = s.errCode := rfl
@[simp] theorem clearKeysAndData_doneIe : (clearKeysAndData s).doneIe = s.doneIe := rfl
@[simp] theorem clearKeysAndData_errIe : (clearKeysAndData s).errIe = s.errIe := rfl
@[simp] theorem clearKeysAndData_pending : (clearKeysAndData s).pending = s.pending := rfl
@[simp] theorem clearKeysAndData_resetLine : (clearKeysAndData s).resetLine = s.resetLine := rfl
@[simp] theorem clearKeysAndData_agenda : (clearKeysAndData s).agenda = s.agenda := rfl
@[simp] theorem clearKeysAndData_resp : (clearKeysAndData s).resp = s.resp := rfl

end

section
variable (w : Fin 4) (v : Word) (s : State)

@[simp] theorem writeKey_cfg : (writeKey w v s).cfg = s.cfg := rfl
@[simp] theorem writeKey_data : (writeKey w v s).data = s.data := rfl
@[simp] theorem writeKey_key : (writeKey w v s).key = s.key.setWord w v := rfl
@[simp] theorem writeKey_blockIndex : (writeKey w v s).blockIndex = s.blockIndex := rfl
@[simp] theorem writeKey_rk : (writeKey w v s).rk = s.rk := rfl
@[simp] theorem writeKey_busy : (writeKey w v s).busy = s.busy := rfl
@[simp] theorem writeKey_keyValid : (writeKey w v s).keyValid = false := rfl
@[simp] theorem writeKey_done : (writeKey w v s).done = s.done := rfl
@[simp] theorem writeKey_err : (writeKey w v s).err = s.err := rfl
@[simp] theorem writeKey_errCode : (writeKey w v s).errCode = s.errCode := rfl
@[simp] theorem writeKey_doneIe : (writeKey w v s).doneIe = s.doneIe := rfl
@[simp] theorem writeKey_errIe : (writeKey w v s).errIe = s.errIe := rfl
@[simp] theorem writeKey_pending : (writeKey w v s).pending = s.pending := rfl
@[simp] theorem writeKey_resetLine : (writeKey w v s).resetLine = s.resetLine := rfl
@[simp] theorem writeKey_agenda : (writeKey w v s).agenda = s.agenda := rfl
@[simp] theorem writeKey_resp : (writeKey w v s).resp = s.resp := rfl

end

section
variable (s : State)

@[simp] theorem holdReset_cfg : (holdReset s).cfg = s.cfg := rfl
@[simp] theorem holdReset_data : (holdReset s).data = Block.zero := rfl
@[simp] theorem holdReset_key : (holdReset s).key = Block.zero := rfl
@[simp] theorem holdReset_blockIndex : (holdReset s).blockIndex = 0 := rfl
@[simp] theorem holdReset_rk : (holdReset s).rk = RoundKeys.zero := rfl
@[simp] theorem holdReset_busy : (holdReset s).busy = false := rfl
@[simp] theorem holdReset_keyValid : (holdReset s).keyValid = false := rfl
@[simp] theorem holdReset_done : (holdReset s).done = false := rfl
@[simp] theorem holdReset_err : (holdReset s).err = false := rfl
@[simp] theorem holdReset_errCode : (holdReset s).errCode = 0 := rfl
@[simp] theorem holdReset_doneIe : (holdReset s).doneIe = false := rfl
@[simp] theorem holdReset_errIe : (holdReset s).errIe = false := rfl
@[simp] theorem holdReset_pending : (holdReset s).pending = none := rfl
@[simp] theorem holdReset_resetLine : (holdReset s).resetLine = true := rfl
@[simp] theorem holdReset_agenda : (holdReset s).agenda = s.agenda := rfl
@[simp] theorem holdReset_resp : (holdReset s).resp = .idle := rfl

end

section
variable (c : ErrCode) (v : Word) (s : State)

@[simp] theorem raiseError_cfg : (raiseError c s).cfg = s.cfg := by unfold raiseError; split <;> rfl
@[simp] theorem raiseError_data : (raiseError c s).data = s.data := by unfold raiseError; split <;> rfl
@[simp] theorem raiseError_key : (raiseError c s).key = s.key := by unfold raiseError; split <;> rfl
@[simp] theorem raiseError_blockIndex : (raiseError c s).blockIndex = s.blockIndex := by unfold raiseError; split <;> rfl
@[simp] theorem raiseError_rk : (raiseError c s).rk = s.rk := by unfold raiseError; split <;> rfl
@[simp] theorem raiseError_busy : (raiseError c s).busy = s.busy := by unfold raiseError; split <;> rfl
@[simp] theorem raiseError_keyValid : (raiseError c s).keyValid = s.keyValid := by unfold raiseError; split <;> rfl
@[simp] theorem raiseError_done : (raiseError c s).done = s.done := by unfold raiseError; split <;> rfl
@[simp] theorem raiseError_doneIe : (raiseError c s).doneIe = s.doneIe := by unfold raiseError; split <;> rfl
@[simp] theorem raiseError_errIe : (raiseError c s).errIe = s.errIe := by unfold raiseError; split <;> rfl
@[simp] theorem raiseError_pending : (raiseError c s).pending = s.pending := by unfold raiseError; split <;> rfl
@[simp] theorem raiseError_resetLine : (raiseError c s).resetLine = s.resetLine := by unfold raiseError; split <;> rfl
@[simp] theorem raiseError_agenda : (raiseError c s).agenda = s.agenda := by unfold raiseError; split <;> rfl
@[simp] theorem raiseError_resp : (raiseError c s).resp = s.resp := by unfold raiseError; split <;> rfl
@[simp] theorem raiseError_err : (raiseError c s).err = true := by unfold raiseError; split <;> simp_all
@[simp] theorem raiseError_errCode : (raiseError c s).errCode = if s.err then s.errCode else c.code := by
  unfold raiseError; split <;> rfl
@[simp] theorem writeStatus_cfg : (writeStatus v s).cfg = s.cfg := by unfold writeStatus; split <;> split <;> rfl
@[simp] theorem writeStatus_data : (writeStatus v s).data = s.data := by unfold writeStatus; split <;> split <;> rfl
@[simp] theorem writeStatus_key : (writeStatus v s).key = s.key := by unfold writeStatus; split <;> split <;> rfl
@[simp] theorem writeStatus_blockIndex : (writeStatus v s).blockIndex = s.blockIndex := by unfold writeStatus; split <;> split <;> rfl
@[simp] theorem writeStatus_rk : (writeStatus v s).rk = s.rk := by unfold writeStatus; split <;> split <;> rfl
@[simp] theorem writeStatus_busy : (writeStatus v s).busy = s.busy := by unfold writeStatus; split <;> split <;> rfl
@[simp] theorem writeStatus_keyValid : (writeStatus v s).keyValid = s.keyValid := by unfold writeStatus; split <;> split <;> rfl
@[simp] theorem writeStatus_doneIe : (writeStatus v s).doneIe = s.doneIe := by unfold writeStatus; split <;> split <;> rfl
@[simp] theorem writeStatus_errIe : (writeStatus v s).errIe = s.errIe := by unfold writeStatus; split <;> split <;> rfl
@[simp] theorem writeStatus_pending : (writeStatus v s).pending = s.pending := by unfold writeStatus; split <;> split <;> rfl
@[simp] theorem writeStatus_resetLine : (writeStatus v s).resetLine = s.resetLine := by unfold writeStatus; split <;> split <;> rfl
@[simp] theorem writeStatus_agenda : (writeStatus v s).agenda = s.agenda := by unfold writeStatus; split <;> split <;> rfl
@[simp] theorem writeStatus_resp : (writeStatus v s).resp = s.resp := by unfold writeStatus; split <;> split <;> rfl
@[simp] theorem writeStatus_done : (writeStatus v s).done = (s.done && !v.getLsbD 2) := by
  unfold writeStatus; split <;> split <;> simp_all
@[simp] theorem writeStatus_err : (writeStatus v s).err = (s.err && !v.getLsbD 3) := by
  unfold writeStatus; split <;> split <;> simp_all
@[simp] theorem writeStatus_errCode : (writeStatus v s).errCode = if v.getLsbD 3 then 0 else s.errCode := by
  unfold writeStatus; split <;> split <;> simp_all

end

end Sys2Proof.Machine
end

