-- ==== Sys2Proof/Laws/Blocks.lean ====
section
/-! SUPPORT. Laws/Blocks.lean: reading a block, a bit or a register word back after writing one, and equality of blocks from
equality of their parts. -/

namespace Sys2Proof

/-- A block is its eight segments. -/
theorem Block.eta (B : Block) : B = #v[B[0], B[1], B[2], B[3], B[4], B[5], B[6], B[7]] := by
  apply Vector.ext
  intro i hi
  interval_cases i <;> rfl

theorem Block.ext_seg {A B : Block} (h : ∀ i : Fin 8, A[i] = B[i]) : A = B :=
  Vector.ext fun i hi => h ⟨i, hi⟩

@[simp] theorem Block.ofFn_get (f : Fin 8 → Seg) (i : Fin 8) : (Block.ofFn f)[i] = f i := by
  fin_cases i <;> rfl

@[simp] theorem RoundKeys.ofFn_get (f : Fin 10 → Block) (r : Fin 10) : (RoundKeys.ofFn f)[r] = f r := by
  fin_cases r <;> rfl

theorem segSetBit_getLsbD (x : Seg) (k : Nat) (v : Bool) (j : Nat) (hk : k < 16) :
    (segSetBit x k v).getLsbD j = if j = k then v else x.getLsbD j := by
  unfold segSetBit
  by_cases hj : j < 16
  · cases v <;> by_cases hjk : j = k <;> simp_all <;> omega
  · have e1 : x.getLsbD j = false := BitVec.getLsbD_of_ge _ _ (by omega)
    have e2 : j ≠ k := by omega
    cases v <;> simp [e2, e1, BitVec.getLsbD_of_ge _ _ (show 16 ≤ j by omega)]

/-- Reading a flat bit after writing one (00_scope.md R8). -/
theorem Block.bit_setBit (B : Block) (b c : Fin 128) (v : Bool) :
    (B.setBit b v).bit c = if c = b then v else B.bit c := by
  simp only [Block.bit, Block.setBit, Vector.getElem_set]
  by_cases h : b.val / 16 = c.val / 16
  · simp only [h, if_true]
    rw [segSetBit_getLsbD _ _ _ _ (Nat.mod_lt _ (by decide))]
    by_cases hm : c.val % 16 = b.val % 16
    · have e : c = b := Fin.ext (by omega)
      simp [e]
    · have e : c ≠ b := fun hc => hm (by rw [hc])
      simp [hm, e]
  · have e : c ≠ b := fun hc => h (by rw [hc])
    simp [h, e]

/-- Blocks with the same 128 bits are the same. -/
theorem Block.ext_bit {A B : Block} (h : ∀ b : Fin 128, A.bit b = B.bit b) : A = B := by
  apply Block.ext_seg
  intro i
  apply BitVec.eq_of_getLsbD_eq
  intro k hk
  have h' := h ⟨16 * i.val + k, by omega⟩
  simp only [Block.bit] at h'
  have e1 : (16 * i.val + k) / 16 = i.val := by omega
  have e2 : (16 * i.val + k) % 16 = k := by omega
  simpa only [e1, e2, Fin.getElem_fin] using h'

/-- Bits written one after the other at distinct positions. -/
theorem Block.bit_foldl_setBit (g : Fin 128 → Fin 128) (f : Fin 128 → Bool) (hg : Function.Injective g) (l : List (Fin 128))
    (B : Block) (b : Fin 128) :
    (l.foldl (fun B' c => B'.setBit (g c) (f c)) B).bit (g b) = if b ∈ l then f b else B.bit (g b) := by
  induction l generalizing B with
  | nil => simp
  | cons c l ih =>
    rw [List.foldl_cons, ih, Block.bit_setBit]
    by_cases hb : b ∈ l
    · simp [hb]
    · by_cases hc : b = c
      · subst hc; simp
      · have e : g b ≠ g c := fun h => hc (hg h)
        simp [hb, hc, e]

/-- Reading a segment after writing a register word (20_memory.md R46). -/
theorem Block.setWord_get (B : Block) (w : Fin 4) (v : Word) (i : Fin 8) :
    (B.setWord w v)[i] =
      if i.val = 2 * w.val then v.extractLsb' 0 16
      else if i.val = 2 * w.val + 1 then v.extractLsb' 16 16 else B[i] := by
  simp only [Block.setWord, Fin.getElem_fin, Vector.getElem_set]
  split_ifs <;> first | rfl | omega

end Sys2Proof
end

