-- ==== Sys2Proof/Laws/Decode.lean ====
section
/-! SUPPORT. Laws/Decode.lean: the fields of a command word as digits of the number it is, and decoding by the format its opcode
selects. -/

namespace Sys2Proof

theorem toNat_extractLsb' {n : Nat} (x : BitVec n) (a b : Nat) :
    (x.extractLsb' a b).toNat = x.toNat / 2 ^ a % 2 ^ b := by
  simp [BitVec.extractLsb'_toNat, Nat.shiftRight_eq_div_pow]

theorem toNat_append_mul {a b : Nat} (x : BitVec a) (y : BitVec b) :
    (x ++ y).toNat = x.toNat * 2 ^ b + y.toNat := by
  rw [BitVec.toNat_append, Nat.shiftLeft_eq, Nat.mul_comm, Nat.two_pow_add_eq_or_of_lt y.isLt]

section
variable (w : Word)

theorem fieldOpc_toNat : (fieldOpc w).toNat = w.toNat % 16 := by rw [fieldOpc, toNat_extractLsb']; omega
theorem fieldRnd_toNat : (fieldRnd w).toNat = w.toNat / 256 % 16 := by rw [fieldRnd, toNat_extractLsb']; omega
theorem fieldRes_toNat : (fieldRes w).toNat = w.toNat / 16 := by rw [fieldRes, toNat_extractLsb']; omega
theorem fieldResHi_toNat : (fieldResHi w).toNat = w.toNat / 4096 := by rw [fieldResHi, toNat_extractLsb']; omega
theorem fieldResLo_toNat : (fieldResLo w).toNat = w.toNat / 16 % 16 := by rw [fieldResLo, toNat_extractLsb']; omega

theorem fieldRes_eq_zero_iff : fieldRes w = 0#28 ↔ w.toNat / 16 = 0 := by
  rw [← fieldRes_toNat, ← BitVec.toNat_inj]; rfl

theorem fieldResHi_eq_zero_iff : fieldResHi w = 0#20 ↔ w.toNat / 4096 = 0 := by
  rw [← fieldResHi_toNat, ← BitVec.toNat_inj]; rfl

theorem fieldResLo_eq_zero_iff : fieldResLo w = 0#4 ↔ w.toNat / 16 % 16 = 0 := by
  rw [← fieldResLo_toNat, ← BitVec.toNat_inj]; rfl

/-- A word is its four fields of format CR side by side (R60). -/
theorem word_eq_fields : w = fieldResHi w ++ fieldRnd w ++ fieldResLo w ++ fieldOpc w := by
  apply BitVec.eq_of_toNat_eq
  simp only [toNat_append_mul, fieldOpc_toNat, fieldRnd_toNat, fieldResHi_toNat, fieldResLo_toNat]
  omega

end

section
variable {w : Word} {i : Instr}

theorem decode_formatC0 (h : formatC0 (fieldOpc w) = some i) :
    decode w = if w.toNat / 16 = 0 then .command i else .illegalCmd := by
  simp only [decode, h, BitVec.ofNat_eq_ofNat, fieldRes_eq_zero_iff]

theorem decode_formatCR (h0 : formatC0 (fieldOpc w) = none) (h : formatCR (fieldOpc w) (fieldRnd w) = some i) :
    decode w =
      if w.toNat / 4096 = 0 ∧ w.toNat / 16 % 16 = 0 then
        if 9 < w.toNat / 256 % 16 then .badRound else .command i
      else .illegalCmd := by
  simp only [decode, h0, h, BitVec.ofNat_eq_ofNat, fieldResHi_eq_zero_iff, fieldResLo_eq_zero_iff, fieldRnd_toNat]

theorem decode_reserved (h0 : formatC0 (fieldOpc w) = none) (h : formatCR (fieldOpc w) (fieldRnd w) = none) :
    decode w = .illegalCmd := by simp only [decode, h0, h]

end

/-- Every opcode by name, for case analysis. -/
theorem opcode_cases : ∀ o : BitVec 4, o = 0 ∨ o = 1 ∨ o = 2 ∨ o = 3 ∨ o = 4 ∨ o = 5 ∨ o = 6 ∨ o = 7 ∨ o = 8 ∨ o = 9 ∨
    o = 10 ∨ o = 11 ∨ o = 12 ∨ o = 13 ∨ o = 14 ∨ o = 15 := by decide

end Sys2Proof
end

