-- ==== Sys2Proof/Laws/Exec.lean ====
section
/-! SUPPORT. Laws/Exec.lean: one spec lemma per shared operation of the commands, and per command the completion it is. -/

namespace Sys2Proof.Machine

theorem roundOf_rndOf (r : Fin 10) : roundOf (rndOf r) = some r := by revert r; decide

theorem roundOf_eq_none {rnd : BitVec 4} (h : 9 < rnd.toNat) : roundOf rnd = none := by
  simp only [roundOf, dif_neg (Nat.not_lt.2 h)]

theorem rndOf_of_roundOk {rnd : BitVec 4} (h : roundOk rnd) : ∃ r : Fin 10, rnd = rndOf r :=
  ⟨⟨rnd.toNat, by have := h; omega⟩, by simp [rndOf]⟩

/-- All a completion of a format CR command can do. -/
theorem completeRound_cases (rnd : BitVec 4) (f : Fin 10 → State → State) (s : State) :
    (∃ r, roundOf rnd = some r ∧ completeRound rnd f s = .next (retire (f r s))) ∨
    (roundOf rnd = none ∧ completeRound rnd f s = .next (raiseError .badRound s)) := by
  unfold completeRound
  cases h : roundOf rnd with
  | some r => exact .inl ⟨r, rfl, rfl⟩
  | none => exact .inr ⟨rfl, rfl⟩

theorem completeRound_rndOf (r : Fin 10) (f : Fin 10 → State → State) (s : State) :
    completeRound (rndOf r) f s = .next (retire (f r s)) := by
  simp only [completeRound, roundOf_rndOf, completeWith]

theorem completeRound_outOfRange {rnd : BitVec 4} (h : 9 < rnd.toNat) (f : Fin 10 → State → State) (s : State) :
    completeRound rnd f s = .next (raiseError .badRound s) := by
  simp only [completeRound, roundOf_eq_none h]

theorem retire_setData (B : Block) (s : State) : retire (setData B s) = retireWithData s B := rfl

section
variable (r : Fin 10) (s : State)

theorem exec_nop : exec .nop s = .next (retire s) := rfl
theorem exec_expandKey : exec .expandKey s = .next (retire (loadRoundKeys s)) := rfl
theorem exec_zeroize : exec .zeroize s = .next (retire (clearKeysAndData s)) := rfl

theorem exec_encrypt : exec .encrypt s =
    .next (retireWithData s (encryptBlock s.cfg.permConst s.rk s.blockIndex s.data)) := rfl

theorem exec_decrypt : exec .decrypt s =
    .next (retireWithData s (decryptBlock s.cfg.permConst s.rk s.blockIndex s.data)) := rfl

theorem exec_perm : exec (.perm (rndOf r)) s =
    .next (retireWithData s (applyPerm s.data (permTable s.cfg.permConst r s.blockIndex))) := by
  show completeRound _ _ _ = _
  rw [completeRound_rndOf, permData, retire_setData, State.perm]

theorem exec_invPerm : exec (.invPerm (rndOf r)) s =
    .next (retireWithData s (applyInvPerm s.data (permTable s.cfg.permConst r s.blockIndex))) := by
  show completeRound _ _ _ = _
  rw [completeRound_rndOf, invPermData, retire_setData, State.perm]

theorem exec_mix : exec (.mix (rndOf r)) s = .next (retireWithData s (mix s.data s.rk[r])) := by
  show completeRound _ _ _ = _
  rw [completeRound_rndOf, mixData, retire_setData, State.roundKey]

theorem exec_invMix : exec (.invMix (rndOf r)) s = .next (retireWithData s (invMix s.data s.rk[r])) := by
  show completeRound _ _ _ = _
  rw [completeRound_rndOf, invMixData, retire_setData, State.roundKey]

theorem exec_diff : exec (.diff (rndOf r)) s = .next (retireWithData s (diff s.data s.rk[r])) := by
  show completeRound _ _ _ = _
  rw [completeRound_rndOf, diffData, retire_setData, State.roundKey]

theorem exec_invDiff : exec (.invDiff (rndOf r)) s = .next (retireWithData s (invDiff s.data s.rk[r])) := by
  show completeRound _ _ _ = _
  rw [completeRound_rndOf, invDiffData, retire_setData, State.roundKey]

theorem exec_roundFwd : exec (.roundFwd (rndOf r)) s =
    .next (retireWithData s (roundFwd s.cfg.permConst s.rk s.blockIndex s.data r)) := by
  show completeRound _ _ _ = _
  rw [completeRound_rndOf, roundFwdData, retire_setData]

theorem exec_roundInv : exec (.roundInv (rndOf r)) s =
    .next (retireWithData s (roundInv s.cfg.permConst s.rk s.blockIndex s.data r)) := by
  show completeRound _ _ _ = _
  rw [completeRound_rndOf, roundInvData, retire_setData]

end

/-- All that the completion of a command can do: nothing but the lifecycle, the three register effects of the housekeeping and
key commands, a new DATA, or, for a round field that names no round, an error record. -/
theorem exec_cases {i : Instr} {s t : State} (h : exec i s = .next t) :
    (i = .nop ∧ t = retire s) ∨
    (i = .expandKey ∧ t = retire (loadRoundKeys s)) ∨
    (i = .zeroize ∧ t = retire (clearKeysAndData s)) ∨
    (i.wf = true ∧ i ≠ .nop ∧ i ≠ .expandKey ∧ i ≠ .zeroize ∧ ∃ D, t = retireWithData s D) ∨
    (i.wf = false ∧ t = raiseError .badRound s) := by
  have round : ∀ (rnd : BitVec 4) (D : Fin 10 → State → Block), completeRound rnd (fun r u => setData (D r u) u) s = .next t →
      (decide (roundOk rnd) = true ∧ ∃ D, t = retireWithData s D) ∨
      (decide (roundOk rnd) = false ∧ t = raiseError .badRound s) := by
    intro rnd D h
    by_cases hr : roundOk rnd
    · obtain ⟨r, rfl⟩ := rndOf_of_roundOk hr
      rw [completeRound_rndOf] at h
      cases h
      exact .inl ⟨by simpa using hr, _, rfl⟩
    · rw [completeRound_outOfRange (Nat.lt_of_not_le hr)] at h
      cases h
      exact .inr ⟨by simpa using hr, rfl⟩
  cases i with
  | nop => cases h; exact .inl ⟨rfl, rfl⟩
  | expandKey => cases h; exact .inr (.inl ⟨rfl, rfl⟩)
  | zeroize => cases h; exact .inr (.inr (.inl ⟨rfl, rfl⟩))
  | encrypt => cases h; exact .inr (.inr (.inr (.inl ⟨rfl, by simp, by simp, by simp, _, rfl⟩)))
  | decrypt => cases h; exact .inr (.inr (.inr (.inl ⟨rfl, by simp, by simp, by simp, _, rfl⟩)))
  | perm r => exact .inr (.inr (.inr ((round r _ h).imp (fun h => ⟨h.1, by simp, by simp, by simp, h.2⟩) id)))
  | invPerm r => exact .inr (.inr (.inr ((round r _ h).imp (fun h => ⟨h.1, by simp, by simp, by simp, h.2⟩) id)))
  | mix r => exact .inr (.inr (.inr ((round r _ h).imp (fun h => ⟨h.1, by simp, by simp, by simp, h.2⟩) id)))
  | invMix r => exact .inr (.inr (.inr ((round r _ h).imp (fun h => ⟨h.1, by simp, by simp, by simp, h.2⟩) id)))
  | diff r => exact .inr (.inr (.inr ((round r _ h).imp (fun h => ⟨h.1, by simp, by simp, by simp, h.2⟩) id)))
  | invDiff r => exact .inr (.inr (.inr ((round r _ h).imp (fun h => ⟨h.1, by simp, by simp, by simp, h.2⟩) id)))
  | roundFwd r => exact .inr (.inr (.inr ((round r _ h).imp (fun h => ⟨h.1, by simp, by simp, by simp, h.2⟩) id)))
  | roundInv r => exact .inr (.inr (.inr ((round r _ h).imp (fun h => ⟨h.1, by simp, by simp, by simp, h.2⟩) id)))

/-- A completion never stops. -/
theorem exec_next (i : Instr) (s : State) : ∃ t, exec i s = .next t := by
  have round : ∀ (rnd : BitVec 4) (f : Fin 10 → State → State), ∃ t, completeRound rnd f s = .next t := by
    intro rnd f
    rcases completeRound_cases rnd f s with ⟨r, -, h⟩ | ⟨-, h⟩ <;> exact ⟨_, h⟩
  cases i with
  | nop => exact ⟨_, rfl⟩
  | expandKey => exact ⟨_, rfl⟩
  | zeroize => exact ⟨_, rfl⟩
  | encrypt => exact ⟨_, rfl⟩
  | decrypt => exact ⟨_, rfl⟩
  | perm r => exact round r _
  | invPerm r => exact round r _
  | mix r => exact round r _
  | invMix r => exact round r _
  | diff r => exact round r _
  | invDiff r => exact round r _
  | roundFwd r => exact round r _
  | roundInv r => exact round r _

/-- The completion of a well-formed command reads and writes no error flag, no response, no agenda and no interrupt enable, and
does not read DONE. -/
theorem exec_of_other_fields {i : Instr} {s t : State} (hw : i.wf = true) (h : exec i s = .next t) (d e : Bool) (c : BitVec 4)
    (de ee : Bool) (es : List Event) (r : BusResp) :
    exec i { s with done := d, err := e, errCode := c, doneIe := de, errIe := ee, agenda := es, resp := r } =
      .next { t with err := e, errCode := c, doneIe := de, errIe := ee, agenda := es, resp := r } := by
  have named : ∀ rnd : BitVec 4, decide (roundOk rnd) = true → ∃ q, rnd = rndOf q :=
    fun rnd hr => rndOf_of_roundOk (by simpa using hr)
  cases i with
  | nop => cases h; rfl
  | expandKey => cases h; rfl
  | zeroize => cases h; rfl
  | encrypt => rw [exec_encrypt] at h; cases h; rfl
  | decrypt => rw [exec_decrypt] at h; cases h; rfl
  | perm x => obtain ⟨x, rfl⟩ := named x hw; rw [exec_perm] at h; cases h; rw [exec_perm]; rfl
  | invPerm x => obtain ⟨x, rfl⟩ := named x hw; rw [exec_invPerm] at h; cases h; rw [exec_invPerm]; rfl
  | mix x => obtain ⟨x, rfl⟩ := named x hw; rw [exec_mix] at h; cases h; rw [exec_mix]; rfl
  | invMix x => obtain ⟨x, rfl⟩ := named x hw; rw [exec_invMix] at h; cases h; rw [exec_invMix]; rfl
  | diff x => obtain ⟨x, rfl⟩ := named x hw; rw [exec_diff] at h; cases h; rw [exec_diff]; rfl
  | invDiff x => obtain ⟨x, rfl⟩ := named x hw; rw [exec_invDiff] at h; cases h; rw [exec_invDiff]; rfl
  | roundFwd x => obtain ⟨x, rfl⟩ := named x hw; rw [exec_roundFwd] at h; cases h; rw [exec_roundFwd]; rfl
  | roundInv x => obtain ⟨x, rfl⟩ := named x hw; rw [exec_roundInv] at h; cases h; rw [exec_roundInv]; rfl

end Sys2Proof.Machine
end

