-- ==== Sys2Proof/Laws/Mixing.lean ====
section
/-! SUPPORT. Laws/Mixing.lean: the mixing layer segment by segment, and the inverse modulo 65537 as a power. -/

namespace Sys2Proof.Machine

/-- `mix`, its loop run out (42_mixing.md R113). -/
theorem mix_segments (B K : Block) :
    mix B K =
      #v[mulQ B[0] (B[1] + K[0]), mulQ B[1] (B[2] + K[1]), mulQ B[2] (B[3] + K[2]), mulQ B[3] (B[4] + K[3]),
         mulQ B[4] (B[5] + K[4]), mulQ B[5] (B[6] + K[5]), mulQ B[6] (B[7] + K[6]),
         mulQ B[7] (mulQ B[0] (B[1] + K[0]) + K[7])] := by
  conv => lhs; rw [Block.eta B]
  rfl

/-- `invMix`, its loop run out: each segment in terms of the restored one above it (R114). -/
theorem invMix_segments (B K : Block) :
    ∃ D : Block, invMix B K = D ∧ D[7] = divQ B[7] (B[0] + K[7]) ∧ D[6] = divQ B[6] (D[7] + K[6]) ∧
      D[5] = divQ B[5] (D[6] + K[5]) ∧ D[4] = divQ B[4] (D[5] + K[4]) ∧ D[3] = divQ B[3] (D[4] + K[3]) ∧
      D[2] = divQ B[2] (D[3] + K[2]) ∧ D[1] = divQ B[1] (D[2] + K[1]) ∧ D[0] = divQ B[0] (D[1] + K[0]) := by
  rw [Block.eta B]
  exact ⟨_, rfl, rfl, rfl, rfl, rfl, rfl, rfl, rfl, rfl⟩

theorem powChain_eq_pow (x k : Nat) : powChain x k = x ^ (2 ^ (k + 1) - 1) % Q := by
  induction k with
  | zero => simp [powChain]
  | succ k ih =>
    have e : 2 ^ (k + 1 + 1) - 1 = (2 ^ (k + 1) - 1) + (2 ^ (k + 1) - 1) + 1 := by
      have : 1 ≤ 2 ^ (k + 1) := Nat.one_le_two_pow
      omega
    rw [powChain, ih, e]
    generalize 2 ^ (k + 1) - 1 = a
    rw [pow_succ x (a + a), pow_add x a a, ← Nat.mul_mod, Nat.mod_mul_mod]

end Sys2Proof.Machine
end

