-- ==== Sys2Proof/Laws/PerInstr.lean ====
section
/-! SUPPORT. Laws/PerInstr.lean: the family `Encoding`: the fields of every command's word, for every round field. -/

namespace Sys2Proof.Laws.Encoding

/-- The word of a command has its opcode in bits 3:0, its round field, or 0, in bits 11:8, and every must-be-0 bit of R60
zero. -/
def Statement (i : Sys2Proof.Instr) : Prop :=
  fieldOpc (encode i) = i.opcode ∧ fieldRnd (encode i) = i.rnd?.getD 0 ∧
  fieldResHi (encode i) = 0 ∧ fieldResLo (encode i) = 0

/-- The same, as one finite check over the sixteen round fields. -/
theorem fields_of_cr : ∀ o r : BitVec 4,
    fieldOpc ((r.setWidth 32 <<< 8) ||| o.setWidth 32) = o ∧ fieldRnd ((r.setWidth 32 <<< 8) ||| o.setWidth 32) = r ∧
    fieldResHi ((r.setWidth 32 <<< 8) ||| o.setWidth 32) = 0 ∧
    fieldResLo ((r.setWidth 32 <<< 8) ||| o.setWidth 32) = 0 := by decide

theorem nop : Statement .nop := by unfold Statement; decide
theorem expandKey : Statement .expandKey := by unfold Statement; decide
theorem encrypt : Statement .encrypt := by unfold Statement; decide
theorem decrypt : Statement .decrypt := by unfold Statement; decide
theorem perm (r : BitVec 4) : Statement (.perm r) := fields_of_cr _ r
theorem invPerm (r : BitVec 4) : Statement (.invPerm r) := fields_of_cr _ r
theorem mix (r : BitVec 4) : Statement (.mix r) := fields_of_cr _ r
theorem invMix (r : BitVec 4) : Statement (.invMix r) := fields_of_cr _ r
theorem diff (r : BitVec 4) : Statement (.diff r) := fields_of_cr _ r
theorem invDiff (r : BitVec 4) : Statement (.invDiff r) := fields_of_cr _ r
theorem roundFwd (r : BitVec 4) : Statement (.roundFwd r) := fields_of_cr _ r
theorem roundInv (r : BitVec 4) : Statement (.roundInv r) := fields_of_cr _ r
theorem zeroize : Statement .zeroize := by unfold Statement; decide

end Sys2Proof.Laws.Encoding
end

