-- ==== Sys2Proof/Laws/Permutation.lean ====
section
/-! SUPPORT. Laws/Permutation.lean: the equations of the shuffle, so that no proof unfolds its 127 draws. -/

namespace Sys2Proof.Machine

/-- The index drawn, as a quotient (41_permutation.md R93). -/
theorem drawIndex_eq_div (x : Word) (i : Nat) : drawIndex x i = x.toNat * (i + 1) / 2 ^ 32 := by
  rw [drawIndex, Nat.shiftRight_eq_div_pow]

theorem shuffleFrom_zero (S : BitVec 64) (P : PermTable) : shuffleFrom 0 S P = P := by rw [shuffleFrom]

/-- One step of the shuffle (R93). -/
theorem shuffleFrom_succ (i : Nat) (S : BitVec 64) (P : PermTable) :
    shuffleFrom (i + 1) S P =
      shuffleFrom i (lcgNext S) (P.swapIfInBounds (i + 1) (drawIndex (lcgOut (lcgNext S)) (i + 1))) := by
  rw [shuffleFrom]

theorem permTable_eq (c : Word) (r : Fin 10) (idx : Word) :
    permTable c r idx = shuffleFrom 127 (seedState c r idx) idTable := by rw [permTable]

/-- The entries of a table after one swap. -/
theorem getElem_swapIfInBounds (P : PermTable) (i j b : Fin 128) :
    (P.swapIfInBounds i.val j.val)[b] = if b = i then P[j] else if b = j then P[i] else P[b] := by
  rw [show P.swapIfInBounds i.val j.val = P.swap i.val j.val i.isLt j.isLt by
    simp [Vector.swapIfInBounds, Vector.swap, Array.swapIfInBounds, i.isLt, j.isLt]]
  simp only [Fin.getElem_fin, Vector.getElem_swap, Fin.ext_iff]

end Sys2Proof.Machine
end

