-- ==== Sys2Proof/Laws/Submit.lean ====
section
/-! SUPPORT. Laws/Submit.lean: what writing a command word can do, one lemma per check of 45_control.md R160. -/

namespace Sys2Proof.Machine

variable {w : Word} {s : State} {i : Instr}

theorem submit_of_busy (h : s.busy = true) : submit w s = raiseError .busy s := by
  simp only [submit, checkWord, h, if_true]

theorem submit_of_illegal (h : s.busy = false) (hd : decode w = .illegalCmd) :
    submit w s = raiseError .illegalCmd s := by simp [submit, checkWord, h, hd]

theorem submit_of_badRound (h : s.busy = false) (hd : decode w = .badRound) :
    submit w s = raiseError .badRound s := by simp [submit, checkWord, h, hd]

theorem submit_of_noKey (h : s.busy = false) (hd : decode w = .command i) (hk : needsKey i = true)
    (hv : s.keyValid = false) : submit w s = raiseError .noKey s := by simp [submit, checkWord, h, hd, hk, hv]

theorem submit_of_command (h : s.busy = false) (hd : decode w = .command i)
    (hk : needsKey i = true → s.keyValid = true) : submit w s = accept i s := by
  have e : (needsKey i && !s.keyValid) = false := by
    cases hn : needsKey i with
    | false => rfl
    | true => simp [hk hn]
  simp [submit, checkWord, h, hd, e]

/-- All that writing a command word can do: an error record, or the acceptance of the command it decodes to, on an idle engine
whose key is valid if the command needs one. -/
theorem submit_cases (w : Word) (s : State) :
    (∃ c, checkWord w s = .error c ∧ submit w s = raiseError c s ∧ c ≠ .mixNotInvertible) ∨
    (∃ i, checkWord w s = .ok i ∧ submit w s = accept i s ∧ s.busy = false ∧ decode w = .command i ∧
      (needsKey i = true → s.keyValid = true)) := by
  unfold submit
  cases h : checkWord w s with
  | error c =>
    refine .inl ⟨c, rfl, rfl, ?_⟩
    rintro rfl
    unfold checkWord at h
    split at h
    · cases h
    · split at h
      · cases h
      · cases h
      · split at h <;> cases h
  | ok i =>
    refine .inr ⟨i, rfl, rfl, ?_⟩
    unfold checkWord at h
    split at h
    · cases h
    · rename_i hb
      split at h
      · cases h
      · cases h
      · rename_i j hj
        split at h
        · cases h
        · rename_i hk
          cases h
          exact ⟨by simpa using hb, hj, fun hn => by simpa [hn] using hk⟩

end Sys2Proof.Machine
end

