-- ==== Sys2Proof/Laws/Port.lean ====
section
/-! SUPPORT. Laws/Port.lean: what one turn can do: the host port, the engine, the reset input. -/

namespace Sys2Proof.Machine

/-- The register map read both ways (20_memory.md R41). -/
theorem regAt_offset (g : Reg) : regAt g.offset = some g := by
  cases g with
  | reserved k => fin_cases k <;> rfl
  | key w => fin_cases w <;> rfl
  | data w => fin_cases w <;> rfl
  | _ => rfl

theorem offset_of_regAt {off : Nat} {g : Reg} (h : regAt off = some g) : off = g.offset := by
  unfold regAt at h
  split at h <;> cases h <;> rfl

theorem offset_lt (g : Reg) : g.offset < 64 := by
  cases g <;> simp only [Reg.offset] <;> omega

theorem offset_mod_four (g : Reg) : g.offset % 4 = 0 := by
  cases g <;> simp only [Reg.offset] <;> omega

/-- Every offset of the window that is a multiple of 4 is some register's (R41). -/
theorem regAt_of_aligned {off : Nat} (h : off < 64) (h4 : off % 4 = 0) : ∃ g, regAt off = some g := by
  have e : off = 4 * (off / 4) := by omega
  have l : off / 4 < 16 := by omega
  rw [e]
  generalize off / 4 = k at l
  interval_cases k <;> exact ⟨_, rfl⟩

theorem regAt_eq_none {off : Nat} (h4 : off % 4 ≠ 0) : regAt off = none := by
  cases h : regAt off with
  | none => rfl
  | some g => exact absurd (offset_of_regAt h ▸ offset_mod_four g) h4

theorem reg?_of_offset {off : Nat} {g : Reg} {d : Dir} (c : Config) (h : regAt off = some g) :
    Access.reg? ⟨c.coreBase + off, 4, d⟩ c = some g := by
  simp only [Access.reg?, if_true, Nat.add_sub_cancel_left, h]

/-- A supported access is the 32-bit access of its register (R10, R42). -/
theorem access_of_reg? {a : Access} {c : Config} {g : Reg} (hw : a.inWindow c) (h : a.reg? c = some g) :
    a = ⟨c.coreBase + g.offset, 4, a.dir⟩ := by
  unfold Access.reg? at h
  split at h
  · rename_i h4
    have e := offset_of_regAt h
    obtain ⟨addr, size, dir⟩ := a
    simp only [Access.inWindow] at hw h4 e
    subst h4
    simp only [Access.mk.injEq, and_true]
    omega
  · cases h

/-- The answer to an access at an offset of the window, outside reset. -/
theorem hostAccess_of_offset {off : Nat} {g : Reg} {d : Dir} {s : State} (hr : s.resetLine = false)
    (h : regAt off = some g) :
    hostAccess ⟨s.cfg.coreBase + off, 4, d⟩ s = .next (accessReg g d s) := by
  have hl := offset_lt g
  have e := offset_of_regAt h
  have hw : Access.inWindow ⟨s.cfg.coreBase + off, 4, d⟩ s.cfg := by
    simp only [Access.inWindow]; omega
  simp only [hostAccess, if_pos hw, hr, Bool.false_eq_true, if_false, reg?_of_offset s.cfg h]

theorem hostAccess_writeOf {g : Reg} {v : Word} {s : State} (hr : s.resetLine = false) :
    hostAccess (Config.writeOf s.cfg g v) s = .next { writeReg g v s with resp := .writeDone } :=
  hostAccess_of_offset hr (regAt_offset g)

theorem hostAccess_readOf {g : Reg} {s : State} (hr : s.resetLine = false) :
    hostAccess (Config.readOf s.cfg g) s = .next { s with resp := .readData (readReg g s) } :=
  hostAccess_of_offset hr (regAt_offset g)

/-- All that one host access can do. -/
theorem hostAccess_cases {a : Access} {s t : State} (h : hostAccess a s = .next t) :
    a.inWindow s.cfg ∧
    ((s.resetLine = true ∧ t = accessInReset a s) ∨
     (s.resetLine = false ∧ ∃ r, t = { s with resp := r }) ∨
     (s.resetLine = false ∧ ∃ g v, a = Config.writeOf s.cfg g v ∧ t = { writeReg g v s with resp := .writeDone })) := by
  unfold hostAccess at h
  split at h
  · rename_i hw
    refine ⟨hw, ?_⟩
    split at h
    · rename_i hr
      cases h
      exact .inl ⟨hr, rfl⟩
    · rename_i hr
      have hr : s.resetLine = false := by simpa using hr
      split at h
      · rename_i g hg
        cases h
        have e := access_of_reg? hw hg
        cases hd : a.dir with
        | read => exact .inr (.inl ⟨hr, _, rfl⟩)
        | write v => exact .inr (.inr ⟨hr, g, v, by rw [e, hd]; rfl, rfl⟩)
      · cases h
        exact .inr (.inl ⟨hr, _, rfl⟩)
  · cases h

/-- An access in the window is always answered. -/
theorem hostAccess_next {a : Access} {s : State} (hw : a.inWindow s.cfg) : ∃ t, hostAccess a s = .next t := by
  unfold hostAccess
  rw [if_pos hw]
  split
  · exact ⟨_, rfl⟩
  · split <;> exact ⟨_, rfl⟩

/-- All that the engine's turn can do. -/
theorem engineTurn_cases {s t : State} (h : engineTurn s = .next t) :
    (s.resetLine = true ∧ t = holdReset s) ∨ (s.resetLine = false ∧ s.pending = none ∧ t = s) ∨
    (s.resetLine = false ∧ ∃ i, s.pending = some i ∧ exec i s = .next t) := by
  unfold engineTurn at h
  split at h
  · rename_i hr; cases h; exact .inl ⟨hr, rfl⟩
  · rename_i hr
    have hr : s.resetLine = false := by simpa using hr
    split at h
    · rename_i hp; cases h; exact .inr (.inl ⟨hr, hp, rfl⟩)
    · rename_i i hp; exact .inr (.inr ⟨hr, i, hp, h⟩)

theorem engineTurn_next (s : State) : ∃ t, engineTurn s = .next t := by
  unfold engineTurn
  split
  · exact ⟨_, rfl⟩
  · split
    · exact ⟨_, rfl⟩
    · exact exec_next _ s

/-- A step is the engine's turn or the first turn of the agenda (20_memory.md R50). -/
theorem step_cases {s t : State} (h : step s = .next t) :
    (s.agenda = [] ∧ turn .engine s = .next t) ∨
    (∃ e es, s.agenda = e :: es ∧ turn e { s with agenda := es } = .next t) := by
  unfold step nextTurn at h
  split at h
  · rename_i ha; exact .inl ⟨ha, h⟩
  · rename_i e es ha; exact .inr ⟨e, es, ha, h⟩

/-- While BUSY is 1 a host write changes only STATUS's error record and DONE, and IRQ_EN (R26, R46). -/
theorem writeReg_of_busy (g : Reg) (v : Word) {s : State} (h : s.busy = true) :
    writeReg g v s = if g.droppedWhileBusy then raiseError .busy s else
      match g with
      | .status => writeStatus v s
      | .irqEn => writeIrqEn v s
      | _ => s := by
  cases g <;> simp [writeReg, unlessBusy, h, Reg.droppedWhileBusy]

end Sys2Proof.Machine
end

