-- ==== Sys2Proof/Tests/Slice0.lean ====
section
/-! SUPPORT. Tests/Slice0.lean: tests against values that stand in the spec (95_test_vectors.md V1 to V7, P1 to P5, and the
encodings of 30_encoding.md R60 to R63), and for every statement with hypotheses a concrete state and operands that meet them. -/

namespace Sys2Proof.Tests

open Sys2Proof.Machine

/-! ## States and blocks of the tests -/

/-- V1's plaintext and key. -/
def v1Plain : Block := #v[0xAAAA, 0xBBBB, 0xCCCC, 0xDDDD, 0x1111, 0x2222, 0x3333, 0x4444]
def v1Key : Block := #v[0x1234, 0x5678, 0x9ABC, 0xDEF0, 0x1111, 0x2222, 0x3333, 0x4444]

/-- `RK[0]` and `RK[9]` of V1, and V1's block after round 0. -/
def v1RK0 : Block := #v[0x8C03, 0xC84F, 0x048B, 0x40C7, 0x8F26, 0xBC15, 0xAD04, 0xDA73]
def v1RK9 : Block := #v[0x3C1B, 0x7867, 0xB4A3, 0xF0DF, 0x3F40, 0x0C0D, 0x1D1E, 0x6A6B]
def v1Round0 : Block := #v[0xC7CA, 0xC5D8, 0x8CD2, 0x7B80, 0xE5F2, 0xEA49, 0x1857, 0x509D]

/-- A CORE whose window is not at address 0. -/
def plat : Config := ⟨0x9E37, 0x9E3779B9, 0x40000000⟩

/-- An idle CORE with V1's key and plaintext. -/
def loaded : State := { State.resetWith plat with key := v1Key, data := v1Plain }

/-- The same with V1's round key of round 0 (in every place) and KEY_VALID. -/
def keyed : State :=
  { loaded with keyValid := true, rk := #v[v1RK0, v1RK0, v1RK0, v1RK0, v1RK0, v1RK0, v1RK0, v1RK0, v1RK0, v1RK0] }

/-- The CORE right after NOP was accepted. -/
def busyNop : State := accept .nop (State.resetWith plat)

/-- A property of the next state; false of a stop. -/
def after (o : Host.Outcome State Fault Refusal) (p : State → Bool) : Bool :=
  match o with
  | .next t => p t
  | .fault _ => false
  | .refused _ => false

/-! ## WellFormed: the one check, with ill-formed terms -/

theorem test_wf_refuses_round_10 : ∀ i ∈ crCommands 10, i.wf = false := by decide
theorem test_wf_refuses_round_15 : ∀ i ∈ crCommands 15, i.wf = false := by decide
theorem test_wf_takes_round_9 : ∀ i ∈ crCommands 9, i.wf = true := by decide

/-! ## Decode: a word of every command, written out from R60 and R62 -/

theorem test_decode_nop : decode 0b00000000000000000000000000000000 = .command .nop := by decide
theorem test_decode_expandKey : decode 0b00000000000000000000000000000001 = .command .expandKey := by decide
theorem test_decode_encrypt : decode 0b00000000000000000000000000000010 = .command .encrypt := by decide
theorem test_decode_decrypt : decode 0b00000000000000000000000000000011 = .command .decrypt := by decide
theorem test_decode_perm : decode 0b00000000000000000000000100000100 = .command (.perm 1) := by decide
theorem test_decode_invPerm : decode 0b00000000000000000000001000000101 = .command (.invPerm 2) := by decide
theorem test_decode_mix : decode 0b00000000000000000000001100000110 = .command (.mix 3) := by decide
theorem test_decode_invMix : decode 0b00000000000000000000010000000111 = .command (.invMix 4) := by decide
theorem test_decode_diff : decode 0b00000000000000000000000000001000 = .command (.diff 0) := by decide
theorem test_decode_invDiff : decode 0b00000000000000000000010100001001 = .command (.invDiff 5) := by decide
theorem test_decode_roundFwd : decode 0b00000000000000000000100000001010 = .command (.roundFwd 8) := by decide
theorem test_decode_roundInv : decode 0b00000000000000000000100100001011 = .command (.roundInv 9) := by decide
theorem test_decode_zeroize : decode 0b00000000000000000000000000001100 = .command .zeroize := by decide

/-- V7, and the order of the checks of R64. -/
theorem test_decode_rejects :
    decode 0x0000000D = .illegalCmd ∧ decode 0x0000000E = .illegalCmd ∧ decode 0xFFFFFFFF = .illegalCmd ∧
    decode 0x00000012 = .illegalCmd ∧ decode 0x00010A06 = .illegalCmd ∧ decode 0x00000A16 = .illegalCmd ∧
    decode 0x00000A06 = .badRound ∧ decode 0x00000F0B = .badRound ∧ decode 0x00000100 = .illegalCmd := by decide

theorem test_decodeBytes_tooShort : decodeBytes [0x06, 0x03, 0x00] = .tooShort := by decide
theorem test_decodeBytes_littleEndian :
    decodeBytes [0x06, 0x03, 0x00, 0x00, 0xAA] = .word (.command (.mix 3)) [0xAA] := by decide

theorem test_decodeTableWord : decodeTableWord 32 0x306 = some (.mix 3) ∧ decodeTableWord 32 0xA06 = none := by decide

/-! ## One command each -/

/-- P4 line 3. -/
theorem test_nop : after (exec .nop busyNop) (fun t => statusWord t == 0x4) = true := by decide +kernel

/-- V1: the first and the last round key. -/
theorem test_expandKey :
    after (exec .expandKey loaded) (fun t => t.rk[0] == v1RK0 && t.rk[9] == v1RK9 && statusWord t == 0x6) = true := by
  decide +kernel

/-- V2: the addition wraps. -/
theorem test_ksSeg_wraps : ksSeg 0x9E37 0xD1D9 9 = 0x0008 := by decide +kernel

/-- The lifecycle of ENCRYPT and DECRYPT (P1 line 9, P2 line 2). -/
theorem test_encrypt_status : after (exec .encrypt (accept .encrypt keyed)) (fun t => statusWord t == 0x6) = true := by
  decide +kernel
theorem test_decrypt_status : after (exec .decrypt (accept .decrypt keyed)) (fun t => statusWord t == 0x6) = true := by
  decide +kernel

/-- V3: rows 0 and 112 of `perm(0, 0)`. -/
theorem test_permTable :
    (permTable 0x9E3779B9 0 0).toList.take 16 = [106, 87, 6, 18, 57, 43, 83, 46, 80, 124, 95, 93, 14, 22, 33, 31] ∧
    (permTable 0x9E3779B9 0 0).toList.drop 112 = [94, 34, 13, 30, 1, 42, 107, 45, 108, 86, 35, 113, 76, 91, 62, 7] := by
  decide +kernel

/-- V3: the first draw of `r = 9`, `idx = 1`. -/
theorem test_firstDraw :
    lcgNext (seedState 0x9E3779B9 9 1) = 0x405BFB9F5FF6353F ∧ drawIndex 0x405BFB9F 127 = 32 := by decide +kernel

/-- V3: `applyPerm` and `applyInvPerm` of V1's plaintext. -/
theorem test_perm : after (exec (.perm 0) loaded) (fun t =>
    t.data == #v[0xAE18, 0xB974, 0xC939, 0x5494, 0x2BE1, 0x3786, 0x8AB5, 0x96C0]) = true := by decide +kernel
theorem test_invPerm : after (exec (.invPerm 0) loaded) (fun t =>
    t.data == #v[0x88A0, 0x853F, 0x8103, 0xF135, 0xA955, 0xAF2A, 0xE615, 0xD536]) = true := by decide +kernel

/-- V4. -/
theorem test_mix : after (exec (.mix 0) keyed) (fun t =>
    t.data == #v[0x92C0, 0x8737, 0x44F4, 0x083E, 0x444F, 0x4912, 0x5D91, 0x21E4]) = true := by decide +kernel
theorem test_mix_zeroFactor :
    mix #v[5, 1, 0, 0, 0, 0, 0, 0] #v[0xFFFF, 0, 0, 0, 0, 0, 0, 0] = #v[5, 1, 0, 0, 0, 0, 0, 5] := by decide +kernel
theorem test_invMix : after (exec (.invMix 0) keyed) (fun t =>
    t.data == #v[0xD845, 0x56E0, 0xC8C9, 0xCA94, 0xCFF0, 0x12AE, 0xB796, 0x3C8E]) = true := by decide +kernel
theorem test_divQ : divQ 0xFFFF 0x1234 = 0x5A75 ∧ mulQ 0xFFFF 0xFFFF = 0 := by decide +kernel

/-- V5. -/
theorem test_diff : after (exec (.diff 0) keyed) (fun t =>
    t.data == #v[0xD956, 0x1592, 0x62ED, 0xAE29, 0xCB62, 0xF851, 0x9E37, 0xF851]) = true := by decide +kernel
theorem test_diffLane : diffLane 0x1234 0xFFFF = 0xF6E5 ∧ diffLane 0x8001 0x0010 = 0x8011 := by decide +kernel
theorem test_invDiff : after (exec (.invDiff 0) keyed) (fun t =>
    t.data == #v[0x24D5, 0xE7E8, 0x08F9, 0x353A, 0xDE78, 0xBCF1, 0x79E3, 0xF3C6]) = true := by decide +kernel

/-- V1: round 0, forward and back. -/
theorem test_roundFwd : after (exec (.roundFwd 0) keyed) (fun t => t.data == v1Round0) = true := by decide +kernel
theorem test_roundInv : after (exec (.roundInv 0) (setData v1Round0 keyed)) (fun t => t.data == v1Plain) = true := by
  decide +kernel

/-- P5 lines 4 to 6. -/
theorem test_zeroize : after (exec .zeroize keyed) (fun t =>
    t.key == Block.zero && t.rk == RoundKeys.zero && t.data == Block.zero && statusWord t == 0x4) = true := by decide +kernel

/-! ## The host port, the errors and the interrupt -/

/-- V7: STATUS after each submission from reset. -/
theorem test_submit_status :
    statusWord (submit 0x00000002 State.reset) = 0x38 ∧ statusWord (submit 0x0000000D State.reset) = 0x18 ∧
    statusWord (submit 0x00000012 State.reset) = 0x18 ∧ statusWord (submit 0x00000A06 State.reset) = 0x28 ∧
    statusWord (submit 0x00010A06 State.reset) = 0x18 ∧ statusWord (submit 0x00000104 State.reset) = 0x1 := by
  decide +kernel

/-- V7: the BUSY check is the first one, and P3 line 2: the first error is kept. -/
theorem test_submit_busy_and_second_error :
    statusWord (submit 0x0000000D busyNop) = 0x49 ∧ statusWord (submit 0x0000000D (raiseError .noKey State.reset)) = 0x38 := by
  decide +kernel

/-- P4 lines 3, 4 and 6: the interrupt. -/
theorem test_irq :
    after (exec .nop { busyNop with doneIe := true }) (fun t => t.irq && !(writeStatus 4 t).irq) = true ∧
    (raiseError .noKey { State.reset with errIe := true }).irq = true := by decide +kernel

/-- P1 line 6: DATA1 after LDBLK, and P1 line 11: KEY0 reads as zero. -/
theorem test_read_words : readReg (.data 1) loaded = 0xDDDDCCCC ∧ readReg (.key 0) loaded = 0 := by decide +kernel

/-! ## A step runs a placed word -/

theorem test_step_runs_expandKey :
    after (step (State.reset.withFetchWord 32 0x1)) (fun t => statusWord t == 0x6) = true := by decide +kernel

/-- V7: a word that is no command is rejected by name. -/
theorem test_step_rejects_word :
    after (step (State.reset.withFetchWord 32 0xD)) (fun t => statusWord t == 0x18 && t.resp == .writeDone) = true := by
  decide +kernel

/-! ## Witnesses: concrete states and operands that meet every hypothesis of a statement -/

theorem test_witness_DecodeOfEncode : (Instr.nop).wf = true ∧ (Instr.perm 0).wf = true ∧ (Instr.roundInv 9).wf = true := by
  decide

theorem test_witness_DecodeIsTheMaskTable : decode 0x00000907 = .command (.invMix 9) ∧ decode 0xC = .command .zeroize := by
  decide

/-- The digit clauses of R64 at their boundaries: rounds 9 and 10, opcodes 11, 12 and 13, the lowest and highest must-be-0
bits. -/
theorem test_witness_DecodeByFields :
    decode 0x0000090B = .command (.roundInv 9) ∧ decode 0x00000A0B = .badRound ∧ decode 0x0000000C = .command .zeroize ∧
    decode 0x0000000D = .illegalCmd ∧ decode 0x0000001C = .illegalCmd ∧ decode 0x8000000C = .illegalCmd ∧
    decode 0x0000001B = .illegalCmd ∧ decode 0x0000100B = .illegalCmd := by decide

/-- The state clauses of `submitsC0` and `submitsCR`: a busy CORE, an idle one without a valid key, one with. -/
theorem test_witness_submits_states :
    busyNop.busy = true ∧ loaded.busy = false ∧ loaded.keyValid = false ∧ keyed.busy = false ∧ keyed.keyValid = true := by
  decide

/-- The word clause of `submitsC0` for each of its opcodes. -/
theorem test_witness_submitsC0_words :
    ∀ opc ∈ [0, 1, 2, 3, 12], ((0x10 + opc : Nat) % 2 ^ 32) % 16 = opc ∧ 0x10 + opc ≠ opc ∧ 0x80000000 + opc ≠ opc := by decide

/-- The word clauses of `submitsCR` for each of its opcodes: a must-be-0 bit low and high, and rounds 10 and 15. -/
theorem test_witness_submitsCR_words :
    ∀ opc ∈ [4, 5, 6, 7, 8, 9, 10, 11],
      (BitVec.ofNat 32 (0x10 + opc)).toNat % 16 = opc ∧ (BitVec.ofNat 32 (0x10 + opc)).toNat / 16 % 16 ≠ 0 ∧
      (BitVec.ofNat 32 (0x1000 + opc)).toNat % 16 = opc ∧ (BitVec.ofNat 32 (0x1000 + opc)).toNat / 4096 ≠ 0 ∧
      (BitVec.ofNat 32 (0xA00 + opc)).toNat / 16 % 16 = 0 ∧ 9 < (BitVec.ofNat 32 (0xA00 + opc)).toNat / 256 % 16 ∧
      9 < (BitVec.ofNat 32 (0xF00 + opc)).toNat / 256 % 16 := by decide

theorem test_witness_RoundKeysDiffer : ksSeg 0x9E37 0x1234 9 = ksSeg 0x9E37 0x1234 9 := rfl

theorem test_witness_SeedStates : seedState 0 9 7 = seedState 0 9 7 := rfl

/-- The shuffle's step at both ends of its range. -/
theorem test_witness_shuffle : 1 ≤ (127 : Fin 128).val ∧ 1 ≤ (1 : Fin 128).val := by decide

theorem test_witness_bijective : PermTable.bijective idTable :=
  fun v => ⟨v, by simp [idTable], by simp [idTable]⟩

theorem test_witness_MulQ : mulQ 0 0xFFFF = 0xFFFF ∧ mulQ 0xFFFF 0 = 0xFFFF := by decide +kernel

/-- `x` at both ends of `1..65536`, each with a `y` in range whose product with it is 1. -/
theorem test_witness_InvQ : 1 * 1 % 65537 = 1 ∧ 65536 * 65536 % 65537 = 1 ∧ 2 * 32769 % 65537 = 1 := by decide

theorem test_witness_InvMix : mixedFrom Block.zero Block.zero Block.zero := by unfold mixedFrom; decide

/-- Rotation amounts 0, 1 and 16, bits 0 and 15. -/
theorem test_witness_Rotation :
    rotl16 0x8001 0 = 0x8001 ∧ rotl16 0x8001 16 = 0x8001 ∧ rotl16 0x8001 1 = 0x0003 ∧ 0 ≤ 16 ∧ 16 ≤ 16 ∧ 15 < 16 := by
  decide +kernel

/-- One word for each clause of R160's order. -/
theorem test_witness_SubmitChecksInOrder :
    busyNop.busy = true ∧ loaded.busy = false ∧ decode 0xD = .illegalCmd ∧ decode 0xA06 = .badRound ∧
    decode 0x2 = .command .encrypt ∧ Instr.encrypt ∈ [.encrypt, .decrypt] ++ (crCommands (fieldRnd 0x2)).drop 2 ∧
    decode 0x906 = .command (.mix 9) ∧ Instr.mix 9 ∈ [.encrypt, .decrypt] ++ (crCommands (fieldRnd 0x906)).drop 2 ∧
    loaded.keyValid = false ∧ keyed.busy = false ∧ keyed.keyValid = true ∧
    decode 0x904 = .command (.perm 9) ∧ Instr.perm 9 ∉ [.encrypt, .decrypt] ++ (crCommands (fieldRnd 0x904)).drop 2 := by
  decide

theorem test_witness_Zeroize_rejected : decode 0x90B = .command (.roundInv 9) ∧ needsKey (.roundInv 9) = true := by decide

theorem test_witness_StepRuns :
    busyNop.resetLine = false ∧ busyNop.pending = some .nop ∧ busyNop.agenda = [] ∧
    { busyNop with agenda := [.engine] }.agenda = .engine :: [] := by decide

theorem test_witness_PlacedWordRunsNext :
    decodeTableWord 32 0x0 = some .nop ∧ decodeTableWord 32 0x90B = some (.roundInv 9) := by decide

/-- A command that needs no key on a CORE without one, and a keyed one on a CORE with one. -/
theorem test_witness_AcceptedCommandRuns :
    (Instr.expandKey).wf = true ∧ loaded.resetLine = false ∧ loaded.busy = false ∧
    (needsKey .expandKey = true → loaded.keyValid = true) ∧
    { loaded with agenda := [.access (Config.writeOf plat .cmd (encode .expandKey)), .engine] }.agenda =
      .access (Config.writeOf loaded.cfg .cmd (encode .expandKey)) :: .engine :: [] ∧
    (Instr.mix 9).wf = true ∧ keyed.resetLine = false ∧ keyed.busy = false ∧
    (needsKey (.mix 9) = true → keyed.keyValid = true) := by decide

theorem test_witness_OutOfRange :
    9 < (10 : BitVec 4).toNat ∧ Instr.perm 10 ∈ crCommands 10 ∧ 9 < (15 : BitVec 4).toNat ∧
    Instr.roundInv 15 ∈ crCommands 15 := by decide

/-- A state that meets both invariants and takes a step, its first by the engine. -/
theorem test_witness_invariants :
    busyNop.Inv ∧ busyNop.EngineInv ∧ step busyNop = .next (retire busyNop) := by
  refine ⟨by decide +kernel, ⟨by decide, ?_, by decide⟩, rfl⟩
  intro i h
  cases h
  decide

/-- A write of a data register, of a key register, of the block index, and EXPAND_KEY's completion, on a CORE each changes; and
the two ways KEY_VALID falls. -/
theorem test_witness_RegistersChange :
    after (turn (.access (Config.writeOf plat (.data 3) 7)) loaded) (fun t => t.data != loaded.data) = true ∧
    after (turn (.access (Config.writeOf plat (.key 0) 7)) loaded) (fun t => t.key != loaded.key) = true ∧
    after (turn (.access (Config.writeOf plat .blockIndex 7)) loaded) (fun t => t.blockIndex != loaded.blockIndex) = true ∧
    after (turn .engine (accept .expandKey loaded)) (fun t => t.rk != loaded.rk && t.keyValid) = true ∧
    keyed.keyValid = true ∧
    after (turn (.access (Config.writeOf plat (.key 3) 7)) keyed) (fun t => !t.keyValid) = true ∧
    after (turn .engine (accept .zeroize keyed)) (fun t => !t.keyValid) = true := by decide +kernel

theorem test_witness_HostCannotRead : sameButKeys loaded { loaded with key := Block.zero } ∧ loaded.key ≠ Block.zero := by
  unfold sameButKeys; decide

/-- A read of each of the sixteen offsets, with the value its clause gives. -/
theorem test_witness_Reads :
    loaded.resetLine = false ∧
    ∀ p ∈ ([(0x00, 0x444C4E43), (0x04, 0), (0x08, 0), (0x0C, 0), (0x10, 0), (0x14, 0), (0x18, 0), (0x1C, 0)] ++
        [(0x20, 0), (0x24, 0), (0x28, 0), (0x2C, 0), (0x30, 0xBBBBAAAA), (0x34, 0xDDDDCCCC), (0x38, 0x22221111),
         (0x3C, 0x44443333)] : List (Nat × Word)),
      after (hostAccess ⟨plat.coreBase + p.1, 4, .read⟩ loaded) (fun t => t == { loaded with resp := .readData p.2 }) = true := by
  decide +kernel

/-- A write at each kind of offset on an idle CORE, and at a dropped one on a busy CORE. -/
theorem test_witness_Writes :
    loaded.resetLine = false ∧ loaded.busy = false ∧ busyNop.resetLine = false ∧ busyNop.busy = true ∧
    (0x20 : Nat) = 0x20 + 4 * (0 : Fin 4).val ∧ (0x2C : Nat) = 0x20 + 4 * (3 : Fin 4).val ∧
    (0x30 : Nat) = 0x30 + 4 * (0 : Fin 4).val ∧ (0x3C : Nat) = 0x30 + 4 * (3 : Fin 4).val ∧
    after (hostAccess ⟨plat.coreBase + 0x3C, 4, .write 7⟩ loaded) (fun t => t.data == loaded.data.setWord 3 7) = true ∧
    after (hostAccess ⟨plat.coreBase + 0x3C, 4, .write 7⟩ busyNop) (fun t => statusWord t == 0x49) = true ∧
    after (hostAccess ⟨plat.coreBase + 0x1C, 4, .write 7⟩ busyNop) (fun t => statusWord t == 0x1) = true := by decide +kernel

theorem test_witness_FourWrites : loaded.resetLine = false ∧ loaded.busy = false := by decide

/-- A 16-bit access, a 64-bit one, and misaligned ones at both ends of the window. -/
theorem test_witness_Unsupported :
    ∀ a ∈ [(⟨0x40000000, 2, .read⟩ : Access), ⟨0x40000038, 8, .write 0⟩, ⟨0x40000001, 4, .read⟩, ⟨0x4000003F, 4, .read⟩],
      loaded.resetLine = false ∧ loaded.cfg.coreBase ≤ a.addr ∧ a.addr < loaded.cfg.coreBase + 64 ∧
      (a.size ≠ 4 ∨ (a.addr - loaded.cfg.coreBase) % 4 ≠ 0) := by decide

/-- The addresses right below and right above the window. -/
theorem test_witness_OutsideWindow : 0x3FFFFFFF < loaded.cfg.coreBase ∧ loaded.cfg.coreBase + 64 ≤ 0x40000040 := by decide

theorem test_witness_FirstErrorIsKept : (raiseError .busy State.reset).err = true ∧ State.reset.err = false := by decide

theorem test_witness_SameCycle :
    busyNop.Inv ∧ busyNop.PendingLegal ∧ busyNop.resetLine = false ∧ busyNop.pending = some .nop ∧
    exec .nop busyNop = .next (retire busyNop) ∧ Reg.cmd.droppedWhileBusy = true ∧
    Reg.blockIndex.droppedWhileBusy = true ∧ (Reg.key 0).droppedWhileBusy = true ∧ (Reg.data 3).droppedWhileBusy = true ∧
    (0x4 : Word).getLsbD 2 = true ∧ (0xC : Word).getLsbD 2 = true :=
  ⟨test_witness_invariants.1, test_witness_invariants.2.1.2.1, rfl, rfl, rfl, rfl, rfl, rfl, rfl, by decide, by decide⟩

theorem test_witness_ResetAborts :
    ∀ e ∈ [Event.engine, Event.resetAssert, Event.access ⟨0x4000003F, 4, .read⟩],
      e = .engine ∨ e = .resetAssert ∨ ∃ a : Access, e = .access a ∧ a.inWindow busyNop.cfg := by
  intro e h
  simp only [List.mem_cons, List.not_mem_nil, or_false] at h
  rcases h with rfl | rfl | rfl
  · exact .inl rfl
  · exact .inr (.inl rfl)
  · exact .inr (.inr ⟨_, rfl, by decide⟩)

theorem test_witness_AccessesDuringReset :
    (holdReset busyNop).resetLine = true ∧ (⟨0x40000004, 4, .write 1⟩ : Access).inWindow (holdReset busyNop).cfg ∧
    (⟨0x4000003F, 1, .read⟩ : Access).inWindow (holdReset busyNop).cfg := by decide

theorem test_witness_NoStepChanges : ∃ t, step loaded = .next t := ⟨_, rfl⟩

/-- The first and the last KEY word, and a keyed command. -/
theorem test_witness_KeyWriteLocks :
    keyed.resetLine = false ∧ keyed.busy = false ∧ (∃ t, hostAccess (Config.writeOf keyed.cfg (.key 0) 1) keyed = .next t) ∧
    (∃ t, hostAccess (Config.writeOf keyed.cfg (.key 3) 1) keyed = .next t) ∧ decode 0x2 = .command .encrypt ∧
    needsKey .encrypt = true := by
  refine ⟨rfl, rfl, ⟨_, hostAccess_writeOf rfl⟩, ⟨_, hostAccess_writeOf rfl⟩, by decide, rfl⟩

theorem test_witness_CompletionReads :
    busyNop.busy = true ∧ busyNop.resetLine = false ∧
    (∀ e ∈ [wrEvent busyNop.cfg (.data 0) 7], ∃ a : Access, e = .access a) ∧
    ∃ t, runTurns [wrEvent busyNop.cfg (.data 0) 7] busyNop = .next t := by
  refine ⟨rfl, rfl, ?_, ?_⟩
  · intro e h
    rw [List.mem_singleton.1 h]
    exact ⟨_, rfl⟩
  · obtain ⟨t, h⟩ := hostAccess_next (a := Config.writeOf busyNop.cfg (.data 0) 7) (s := busyNop) (by decide)
    exact ⟨t, by simp only [runTurns, turn, wrEvent, h, andThen]⟩

/-- NOP pending, and one STATUS read still to come before the engine moves. -/
theorem test_witness_EveryAcceptedCommandCompletes :
    { busyNop with agenda := [rdEvent plat .status] }.EngineInv ∧
    { busyNop with agenda := [rdEvent plat .status] }.resetLine = false ∧
    ∀ e ∈ [rdEvent plat .status], e = .engine ∨ ∃ a : Access, e = .access a ∧ a.inWindow plat := by
  refine ⟨test_witness_invariants.2.1, rfl, ?_⟩
  intro e h
  rw [List.mem_singleton.1 h]
  exact .inr ⟨_, rfl, by decide⟩

theorem test_witness_SafeHandshake :
    loaded.Inv ∧ loaded.busy = false ∧ loaded.resetLine = false ∧
    ∀ e ∈ [rdEvent loaded.cfg .status, .engine, rdEvent loaded.cfg .status], e = .engine ∨ e = rdEvent loaded.cfg .status := by
  decide +kernel

end Sys2Proof.Tests
end

section
/-! SUPPORT. The flat bits of a block read through its three other forms: a segment, a register word, and the 128-bit integer
(00_scope.md R8, 20_memory.md R46, R47). -/

namespace Sys2Proof

/-- Flat bit `b` is a bit of segment `b / 16`, the segment named by a `Fin 8` as the segment laws name it. -/
theorem Block.bit_eq_seg (B : Block) (b : Fin 128) :
    B.bit b = B[(⟨b.val / 16, by omega⟩ : Fin 8)].getLsbD (b.val % 16) := rfl

/-- Bit `k` of segment `i` stands at flat position `16i + k` (R8). -/
theorem Block.bit_of_seg (B : Block) (b : Fin 128) (i : Fin 8) (k : Nat) (hk : k < 16) (hb : b.val = 16 * i.val + k) :
    B.bit b = B[i].getLsbD k := by
  have hdiv : b.val / 16 = i.val := by omega
  have hmod : b.val % 16 = k := by omega
  simp only [Block.bit, hdiv, hmod, Fin.getElem_fin]

/-- The low half of register word `w` is segment `2w`, the high half segment `2w + 1` (R47). -/
theorem Block.word_getLsbD (B : Block) (w : Fin 4) (j : Nat) :
    (B.word w).getLsbD j =
      if j < 16 then B[(⟨2 * w.val, by omega⟩ : Fin 8)].getLsbD j
      else B[(⟨2 * w.val + 1, by omega⟩ : Fin 8)].getLsbD (j - 16) :=
  BitVec.getLsbD_append

theorem Block.word_getLsbD_eq_bit (B : Block) (w : Fin 4) (j : Fin 32) :
    (B.word w).getLsbD j.val = B.bit ⟨32 * w.val + j.val, by omega⟩ := by
  rw [Block.word_getLsbD]
  split
  case isTrue hlow => exact (B.bit_of_seg _ ⟨2 * w.val, by omega⟩ j.val hlow (by simp only; omega)).symm
  case isFalse hhigh =>
    exact (B.bit_of_seg _ ⟨2 * w.val + 1, by omega⟩ (j.val - 16) (by omega) (by simp only; omega)).symm

/-- Segment `i` stands at bits `16i` to `16i + 15` of the integer (R8). -/
theorem Block.flat_getLsbD_seg (B : Block) (i : Fin 8) (k : Nat) (hk : k < 16) :
    B.flat.getLsbD (16 * i.val + k) = B[i].getLsbD k := by
  have above (n : Nat) : ¬ 16 * (n + 1) + k < 16 := by omega
  have next (n : Nat) : 16 * (n + 1) + k - 16 = 16 * n + k := by omega
  have found : 16 * 0 + k = k := by omega
  fin_cases i <;>
    simp only [Block.flat, BitVec.getLsbD_append, above, next, found, hk, if_true, if_false, Fin.getElem_fin]

theorem Block.flat_getLsbD_eq_bit (B : Block) (b : Fin 128) : B.flat.getLsbD b.val = B.bit b := by
  have hflat := B.flat_getLsbD_seg ⟨b.val / 16, by omega⟩ (b.val % 16) (by omega)
  rwa [← Block.bit_eq_seg, Nat.div_add_mod] at hflat

/-- Reading a flat bit after writing a register word: the word's own 32 bits come from the value, the others stay (R46, R47). -/
theorem Block.bit_setWord (B : Block) (w : Fin 4) (v : Word) (b : Fin 128) :
    (B.setWord w v).bit b = if b.val / 32 = w.val then v.getLsbD (b.val % 32) else B.bit b := by
  rw [Block.bit_eq_seg, Block.setWord_get]
  by_cases hlow : b.val / 16 = 2 * w.val
  · have hw : b.val / 32 = w.val := by omega
    have hpos : b.val % 16 = b.val % 32 := by omega
    have hk : b.val % 32 < 16 := by omega
    simp [hlow, hw, hpos, hk]
  · by_cases hhigh : b.val / 16 = 2 * w.val + 1
    · have hw : b.val / 32 = w.val := by omega
      have hpos : 16 + b.val % 16 = b.val % 32 := by omega
      have hk : b.val % 16 < 16 := by omega
      simp [hhigh, hw, hpos, hk]
    · have hw : b.val / 32 ≠ w.val := by omega
      simp [hlow, hhigh, hw, Block.bit]

end Sys2Proof

namespace Sys2Proof.Machine

/-- Settles O46, one law for each of its three parts: the word's bits, the integer's bits, and the frame of a word write. -/
theorem registerWordsAreFlatBits : Obligations.RegisterWordsAreFlatBits := fun B w v b =>
  ⟨Block.word_getLsbD_eq_bit B w, Block.flat_getLsbD_eq_bit B b, Block.bit_setWord B w v b⟩

end Sys2Proof.Machine
end

section
/-! SUPPORT. The state after reset (10_state.md R36) and the bits of STATUS (R25). -/

namespace Sys2Proof.Machine

theorem statusWord_resetWith (c : Config) : statusWord (State.resetWith c) = 0 := by
  simp [statusWord, flagBit, State.resetWith]

theorem irqEnWord_resetWith (c : Config) : irqEnWord (State.resetWith c) = 0 := by
  simp [irqEnWord, flagBit, State.resetWith]

theorem word_zero : ∀ w : Fin 4, Block.zero.word w = 0 := by decide

/-- ID is a constant; every other register reads 0 after reset (R31, R36). -/
theorem readReg_resetWith (g : Reg) (c : Config) :
    readReg g (State.resetWith c) = if g = .id then idValue else 0 := by
  cases g with
  | data w => exact word_zero w
  | status => exact statusWord_resetWith c
  | irqEn => exact irqEnWord_resetWith c
  | _ => rfl

/-- Settles O37, from the register reads after reset. -/
theorem resetLeavesEverythingZero : Obligations.ResetLeavesEverythingZero := fun c =>
  ⟨rfl, rfl, rfl, rfl, statusWord_resetWith c, irqEnWord_resetWith c, rfl, rfl, rfl, fun g => readReg_resetWith g c⟩

/-- STATUS bit by bit (R25): BUSY, KEY_VALID, DONE, ERR, the four bits of ERR_CODE, and zeros. -/
theorem statusWord_getLsbD (s : State) (k : Nat) :
    (statusWord s).getLsbD k =
      if k = 0 then s.busy else if k = 1 then s.keyValid else if k = 2 then s.done else if k = 3 then s.err
      else if k < 8 then s.errCode.getLsbD (k - 4) else false := by
  simp only [statusWord, flagBit, BitVec.getLsbD_setWidth, BitVec.getLsbD_append, BitVec.getLsbD_ofBool]
  by_cases hk : k < 8
  · interval_cases k <;> simp
  · obtain ⟨j, rfl⟩ := Nat.exists_eq_add_of_le' (Nat.le_of_not_lt hk)
    simp

/-- A write of STATUS on the word read: bit 2 of the value clears DONE, bit 3 clears ERR and ERR_CODE (R28, R29). -/
theorem statusWord_writeStatus_getLsbD (s : State) (v : Word) (k : Nat) :
    (statusWord (writeStatus v s)).getLsbD k =
      if k = 2 then s.done && !v.getLsbD 2
      else if 3 ≤ k ∧ k < 8 then (statusWord s).getLsbD k && !v.getLsbD 3
      else (statusWord s).getLsbD k := by
  simp only [statusWord_getLsbD, writeStatus_busy, writeStatus_keyValid, writeStatus_done, writeStatus_err,
    writeStatus_errCode]
  by_cases hk : k < 8
  · generalize v.getLsbD 3 = clear
    interval_cases k <;> cases clear <;> simp
  · obtain ⟨j, rfl⟩ := Nat.exists_eq_add_of_le' (Nat.le_of_not_lt hk)
    simp

/-- Settles O41: STATUS is read through `statusWord`, and written through `writeStatus`. -/
theorem statusBits : Obligations.StatusBits := fun s v k =>
  ⟨statusWord_getLsbD s k, statusWord_writeStatus_getLsbD s v k, statusWord_resetWith s.cfg⟩

end Sys2Proof.Machine
end

section
/-! SUPPORT. All that a host write can do to a register (20_memory.md R46), and what each shared operation keeps of R37's
invariants. -/

namespace Sys2Proof.Machine

variable {s t : State}

/-- What holds of the dropped write's error record, and of the write itself on an idle engine, holds of the write. -/
theorem unlessBusy_ind {P : State → Prop} {f : State → State} (hdropped : P (raiseError .busy s))
    (hidle : s.busy = false → P (f s)) : P (unlessBusy f s) := by
  unfold unlessBusy
  split
  case isTrue hb => exact hdropped
  case isFalse hb => exact hidle (by simpa using hb)

/-- The host writes that reach no register of the key, the data or the block index, by the state after them. -/
inductive ControlWrite (v : Word) (s : State) : State → Prop
  | ignored : ControlWrite v s s
  | error (c : ErrCode) : ControlWrite v s (raiseError c s)
  | accepted (i : Instr) : ControlWrite v s (accept i s)
  | status : ControlWrite v s (writeStatus v s)
  | irqEn : ControlWrite v s (writeIrqEn v s)

/-- What a host write of `v` can do, by the register it names and the state after it (R46): DATA, KEY and BLOCK_INDEX change on
an idle engine only, each by its own register; which register a control write names is left open. -/
inductive WriteEffect (v : Word) (s : State) : Reg → State → Prop
  | data (idle : s.busy = false) (w : Fin 4) : WriteEffect v s (.data w) (setData (s.data.setWord w v) s)
  | key (idle : s.busy = false) (w : Fin 4) : WriteEffect v s (.key w) (writeKey w v s)
  | blockIndex (idle : s.busy = false) : WriteEffect v s .blockIndex { s with blockIndex := v }
  | control {g : Reg} {t : State} (h : ControlWrite v s t) : WriteEffect v s g t

theorem submit_controlWrite (v : Word) (s : State) : ControlWrite v s (submit v s) := by
  rcases submit_cases v s with ⟨c, -, h, -⟩ | ⟨i, -, h, -⟩
  · rw [h]; exact .error c
  · rw [h]; exact .accepted i

theorem writeReg_effect (g : Reg) (v : Word) (s : State) : WriteEffect v s g (writeReg g v s) := by
  have dropped {g : Reg} : WriteEffect v s g (raiseError .busy s) := .control (.error .busy)
  cases g with
  | id | reserved => exact .control .ignored
  | status => exact .control .status
  | irqEn => exact .control .irqEn
  | cmd => exact unlessBusy_ind dropped fun _ => .control (submit_controlWrite v s)
  | blockIndex => exact unlessBusy_ind (f := fun t => { t with blockIndex := v }) dropped fun idle => .blockIndex idle
  | key w => exact unlessBusy_ind dropped fun idle => .key idle w
  | data w => exact unlessBusy_ind dropped fun idle => .data idle w

theorem resetWith_inv (c : Config) : (State.resetWith c).Inv :=
  ⟨by simp [State.resetWith], by simp [State.resetWith], fun _ => rfl, by simp [State.resetWith]⟩

/-- The reset value of every piece of state meets the invariants, whatever the line, the agenda and the response are. -/
theorem holdReset_inv (s : State) : (holdReset s).Inv := resetWith_inv s.cfg

theorem accessInReset_inv (a : Access) (s : State) : (accessInReset a s).Inv := by
  unfold accessInReset
  split <;> exact holdReset_inv s

theorem releaseReset_inv (h : s.Inv) : (releaseReset s).Inv := by
  unfold releaseReset
  split
  · exact resetWith_inv s.cfg
  · exact h

theorem raiseError_inv (c : ErrCode) (h : s.Inv) : (raiseError c s).Inv := by
  obtain ⟨hbusy, hkey, -, hdone⟩ := h
  exact ⟨by simpa using hbusy, by simpa using hkey, by simp, by simpa using hdone⟩

theorem accept_inv (i : Instr) (h : s.Inv) : (accept i s).Inv := by
  obtain ⟨-, hkey, herr, -⟩ := h
  exact ⟨by simp, hkey, herr, by simp⟩

/-- A completion establishes R37's first and fourth invariant; its own effect need keep only the second and the third. -/
theorem retire_inv (hkey : s.keyValid = true → s.rk = expandKey s.cfg.ksC s.key) (herr : s.err = false → s.errCode = 0) :
    (retire s).Inv :=
  ⟨by simp, hkey, herr, by simp⟩

theorem writeStatus_inv (v : Word) (h : s.Inv) : (writeStatus v s).Inv := by
  obtain ⟨hbusy, hkey, herr, hdone⟩ := h
  refine ⟨by simpa using hbusy, by simpa using hkey, ?_, ?_⟩
  · rw [writeStatus_err, writeStatus_errCode]
    cases v.getLsbD 3 with
    | true => simp
    | false => simpa using herr
  · intro hb
    simp [hdone (by simpa using hb)]

theorem ControlWrite.inv {v : Word} (hc : ControlWrite v s t) (h : s.Inv) : t.Inv := by
  cases hc with
  | ignored | irqEn => exact h
  | error c => exact raiseError_inv c h
  | accepted i => exact accept_inv i h
  | status => exact writeStatus_inv v h

/-- A host write keeps the invariants: a KEY write parts KEY from RK, and clears KEY_VALID with it. -/
theorem WriteEffect.inv {g : Reg} {v : Word} (hw : WriteEffect v s g t) (h : s.Inv) : t.Inv := by
  cases hw with
  | data | blockIndex => exact h
  | key idle w =>
    obtain ⟨hbusy, -, herr, hdone⟩ := h
    exact ⟨hbusy, by simp, herr, hdone⟩
  | control hc => exact hc.inv h

/-- A completion keeps the invariants: EXPAND_KEY makes RK the schedule of KEY, and ZEROIZE clears KEY_VALID with both. -/
theorem exec_inv {i : Instr} (h : s.Inv) (he : exec i s = .next t) : t.Inv := by
  have ⟨_, hkey, herr, _⟩ := h
  rcases exec_cases he with ⟨-, rfl⟩ | ⟨-, rfl⟩ | ⟨-, rfl⟩ | ⟨-, -, -, -, D, rfl⟩ | ⟨-, rfl⟩
  · exact retire_inv hkey herr
  · exact retire_inv (fun _ => rfl) herr
  · exact retire_inv (by simp) herr
  · exact retire_inv (s := setData D s) hkey herr
  · exact raiseError_inv _ h

theorem hostAccess_inv {a : Access} (h : s.Inv) (ha : hostAccess a s = .next t) : t.Inv := by
  rcases (hostAccess_cases ha).2 with ⟨-, rfl⟩ | ⟨-, r, rfl⟩ | ⟨-, g, v, -, rfl⟩
  · exact accessInReset_inv a s
  · exact h
  · exact (writeReg_effect g v s).inv h

theorem engineTurn_inv (h : s.Inv) (he : engineTurn s = .next t) : t.Inv := by
  rcases engineTurn_cases he with ⟨-, rfl⟩ | ⟨-, -, rfl⟩ | ⟨-, i, -, hi⟩
  · exact holdReset_inv s
  · exact h
  · exact exec_inv h hi

theorem turn_inv {e : Event} (h : s.Inv) (he : turn e s = .next t) : t.Inv := by
  cases e with
  | access a => exact hostAccess_inv h he
  | engine => exact engineTurn_inv h he
  | resetAssert => cases he; exact holdReset_inv s
  | resetRelease => cases he; exact releaseReset_inv h

/-- The agenda is the model's own field, so taking a turn off it changes no invariant. -/
theorem step_inv (h : s.Inv) (hs : step s = .next t) : t.Inv := by
  rcases step_cases hs with ⟨-, he⟩ | ⟨e, es, -, he⟩
  · exact turn_inv h he
  · exact turn_inv (s := { s with agenda := es }) h he

/-- Settles O39: the invariants hold at reset, and each turn a step can take keeps them. -/
theorem everyStepKeepsTheInvariants : Obligations.EveryStepKeepsTheInvariants :=
  ⟨fun _ _ => step_inv, resetWith_inv⟩

end Sys2Proof.Machine
end

section
/-! SUPPORT. The writers of DATA, KEY, BLOCK_INDEX, RK and KEY_VALID (10_state.md R20, R22, R24, R27). -/

namespace Sys2Proof.Machine

/-- DATA, KEY, BLOCK_INDEX, RK and KEY_VALID have in `t` the values they have in `s`. -/
structure KeepsRegisters (s t : State) : Prop where
  data : t.data = s.data
  key : t.key = s.key
  blockIndex : t.blockIndex = s.blockIndex
  rk : t.rk = s.rk
  keyValid : t.keyValid = s.keyValid

/-- What a turn outside reset does to those registers, one constructor per writer: `RegisterTurn s e t` is turn `e` from `s`
to `t`. -/
inductive RegisterTurn (s : State) : Event → State → Prop
  | keeps {e : Event} {t : State} (kept : KeepsRegisters s t) : RegisterTurn s e t
  | dataWrite (idle : s.busy = false) (w : Fin 4) (v : Word) :
      RegisterTurn s (.access (Config.writeOf s.cfg (.data w) v))
        { setData (s.data.setWord w v) s with resp := .writeDone }
  | keyWrite (idle : s.busy = false) (w : Fin 4) (v : Word) :
      RegisterTurn s (.access (Config.writeOf s.cfg (.key w) v)) { writeKey w v s with resp := .writeDone }
  | blockIndexWrite (idle : s.busy = false) (v : Word) :
      RegisterTurn s (.access (Config.writeOf s.cfg .blockIndex v)) { s with blockIndex := v, resp := .writeDone }
  | expandKey (pending : s.pending = some .expandKey) : RegisterTurn s .engine (retire (loadRoundKeys s))
  | zeroize (pending : s.pending = some .zeroize) : RegisterTurn s .engine (retire (clearKeysAndData s))
  | layers {i : Instr} (pending : s.pending = some i) (notNop : i ≠ .nop) (notExpandKey : i ≠ .expandKey) (D : Block) :
      RegisterTurn s .engine (retireWithData s D)

variable {s t : State} {e : Event}

theorem raiseError_keepsRegisters (c : ErrCode) (s : State) : KeepsRegisters s (raiseError c s) :=
  ⟨raiseError_data c s, raiseError_key c s, raiseError_blockIndex c s, raiseError_rk c s, raiseError_keyValid c s⟩

theorem writeStatus_keepsRegisters (v : Word) (s : State) : KeepsRegisters s (writeStatus v s) :=
  ⟨writeStatus_data v s, writeStatus_key v s, writeStatus_blockIndex v s, writeStatus_rk v s, writeStatus_keyValid v s⟩

theorem ControlWrite.keepsRegisters {v : Word} (h : ControlWrite v s t) : KeepsRegisters s t := by
  cases h with
  | ignored | accepted | irqEn => exact ⟨rfl, rfl, rfl, rfl, rfl⟩
  | error c => exact raiseError_keepsRegisters c s
  | status => exact writeStatus_keepsRegisters v s

theorem WriteEffect.registerTurn {g : Reg} {v : Word} (h : WriteEffect v s g t) :
    RegisterTurn s (.access (Config.writeOf s.cfg g v)) { t with resp := .writeDone } := by
  cases h with
  | data idle w => exact .dataWrite idle w v
  | key idle w => exact .keyWrite idle w v
  | blockIndex idle => exact .blockIndexWrite idle v
  | control hc =>
    obtain ⟨hdata, hkey, hidx, hrk, hvalid⟩ := hc.keepsRegisters
    exact .keeps ⟨hdata, hkey, hidx, hrk, hvalid⟩

theorem exec_registerTurn {i : Instr} (hp : s.pending = some i) (h : exec i s = .next t) : RegisterTurn s .engine t := by
  rcases exec_cases h with ⟨-, rfl⟩ | ⟨rfl, rfl⟩ | ⟨rfl, rfl⟩ | ⟨-, hn, hx, -, D, rfl⟩ | ⟨-, rfl⟩
  · exact .keeps ⟨rfl, rfl, rfl, rfl, rfl⟩
  · exact .expandKey hp
  · exact .zeroize hp
  · exact .layers hp hn hx D
  · exact .keeps (raiseError_keepsRegisters _ s)

/-- All that a turn outside reset can do to those registers. -/
theorem turn_registerTurn (h : turn e s = .next t) (hr : s.resetLine = false) (hn : e ≠ .resetAssert) :
    RegisterTurn s e t := by
  cases e with
  | access a =>
    rcases (hostAccess_cases h).2 with ⟨hr', -⟩ | ⟨-, r, rfl⟩ | ⟨-, g, v, rfl, rfl⟩
    · simp [hr] at hr'
    · exact .keeps ⟨rfl, rfl, rfl, rfl, rfl⟩
    · exact (writeReg_effect g v s).registerTurn
  | engine =>
    rcases engineTurn_cases h with ⟨hr', -⟩ | ⟨-, -, rfl⟩ | ⟨-, i, hp, hi⟩
    · simp [hr] at hr'
    · exact .keeps ⟨rfl, rfl, rfl, rfl, rfl⟩
    · exact exec_registerTurn hp hi
  | resetAssert => exact absurd rfl hn
  | resetRelease =>
    simp only [turn, releaseReset, hr] at h
    cases h
    exact .keeps ⟨rfl, rfl, rfl, rfl, rfl⟩

namespace RegisterTurn

theorem data_writer (h : RegisterTurn s e t) (hne : t.data ≠ s.data) :
    (s.busy = false ∧ ∃ w v, e = .access (Config.writeOf s.cfg (.data w) v)) ∨
    (e = .engine ∧ ∃ i, s.pending = some i ∧ i ≠ .nop ∧ i ≠ .expandKey) := by
  cases h with
  | keeps kept => exact absurd kept.data hne
  | dataWrite idle w v => exact .inl ⟨idle, w, v, rfl⟩
  | zeroize hp => exact .inr ⟨rfl, _, hp, by simp, by simp⟩
  | layers hp hn hx D => exact .inr ⟨rfl, _, hp, hn, hx⟩
  | keyWrite | blockIndexWrite | expandKey => exact absurd rfl hne

theorem key_writer (h : RegisterTurn s e t) (hne : t.key ≠ s.key) :
    (s.busy = false ∧ ∃ w v, e = .access (Config.writeOf s.cfg (.key w) v)) ∨
    (e = .engine ∧ s.pending = some .zeroize) := by
  cases h with
  | keeps kept => exact absurd kept.key hne
  | keyWrite idle w v => exact .inl ⟨idle, w, v, rfl⟩
  | zeroize hp => exact .inr ⟨rfl, hp⟩
  | dataWrite | blockIndexWrite | expandKey | layers => exact absurd rfl hne

theorem blockIndex_writer (h : RegisterTurn s e t) (hne : t.blockIndex ≠ s.blockIndex) :
    (s.busy = false ∧ ∃ v, e = .access (Config.writeOf s.cfg .blockIndex v)) ∨
    (e = .engine ∧ s.pending = some .zeroize) := by
  cases h with
  | keeps kept => exact absurd kept.blockIndex hne
  | blockIndexWrite idle v => exact .inl ⟨idle, v, rfl⟩
  | zeroize hp => exact .inr ⟨rfl, hp⟩
  | dataWrite | keyWrite | expandKey | layers => exact absurd rfl hne

theorem rk_writer (h : RegisterTurn s e t) (hne : t.rk ≠ s.rk) :
    e = .engine ∧ (s.pending = some .expandKey ∨ s.pending = some .zeroize) := by
  cases h with
  | keeps kept => exact absurd kept.rk hne
  | expandKey hp => exact ⟨rfl, .inl hp⟩
  | zeroize hp => exact ⟨rfl, .inr hp⟩
  | dataWrite | keyWrite | blockIndexWrite | layers => exact absurd rfl hne

/-- The writers of KEY_VALID, each with the value it leaves (R27). -/
theorem keyValid_writer (h : RegisterTurn s e t) (hne : t.keyValid ≠ s.keyValid) :
    (t.keyValid = true ∧ e = .engine ∧ s.pending = some .expandKey) ∨
    (t.keyValid = false ∧
      ((s.busy = false ∧ ∃ w v, e = .access (Config.writeOf s.cfg (.key w) v)) ∨
       (e = .engine ∧ s.pending = some .zeroize))) := by
  cases h with
  | keeps kept => exact absurd kept.keyValid hne
  | expandKey hp => exact .inl ⟨rfl, rfl, hp⟩
  | keyWrite idle w v => exact .inr ⟨rfl, .inl ⟨idle, w, v, rfl⟩⟩
  | zeroize hp => exact .inr ⟨rfl, .inr ⟨rfl, hp⟩⟩
  | dataWrite | blockIndexWrite | layers => exact absurd rfl hne

end RegisterTurn

/-- Settles O42: each register's writers, read off the constructors of `RegisterTurn`. -/
theorem registersChangeOnlyByTheirWriters : Obligations.RegistersChangeOnlyByTheirWriters := by
  intro s t e h hr hn
  have hturn := turn_registerTurn h hr hn
  refine ⟨hturn.data_writer, hturn.key_writer, hturn.blockIndex_writer, hturn.rk_writer, ?_, ?_⟩
  · intro hs ht
    rcases hturn.keyValid_writer (by simp [hs, ht]) with ⟨-, hrise⟩ | ⟨hfalse, -⟩
    · exact hrise
    · simp [ht] at hfalse
  · intro hs ht
    rcases hturn.keyValid_writer (by simp [hs, ht]) with ⟨htrue, -⟩ | ⟨-, hfall⟩
    · simp [ht] at htrue
    · exact hfall

end Sys2Proof.Machine
end

section
/-! SUPPORT. Two runs on states that differ in KEY and RK only (10_state.md R22, R24): every operation of the host port keeps
them so. -/

namespace Sys2Proof.Machine

variable {s s' : State}

theorem sameButKeys_iff : sameButKeys s s' ↔ ∃ K RK, s' = { s with key := K, rk := RK } :=
  ⟨fun h => ⟨s'.key, s'.rk, h.symm⟩, by rintro ⟨K, RK, rfl⟩; rfl⟩

namespace sameButKeys

theorem busy (h : sameButKeys s s') : s'.busy = s.busy := by rw [← h]
theorem err (h : sameButKeys s s') : s'.err = s.err := by rw [← h]
theorem resp (h : sameButKeys s s') : s'.resp = s.resp := by rw [← h]
theorem irq (h : sameButKeys s s') : s'.irq = s.irq := by rw [← h]; rfl
theorem checkWord (h : sameButKeys s s') (w : Word) : checkWord w s' = checkWord w s := by rw [← h]; rfl
theorem readReg (h : sameButKeys s s') (g : Reg) : readReg g s' = readReg g s := by rw [← h]; rfl

theorem withResp (h : sameButKeys s s') (r : BusResp) : sameButKeys { s with resp := r } { s' with resp := r } := by
  obtain ⟨K, RK, rfl⟩ := sameButKeys_iff.1 h
  rfl

theorem raiseError (h : sameButKeys s s') (c : ErrCode) : sameButKeys (raiseError c s) (raiseError c s') := by
  unfold Machine.raiseError
  rw [h.err]
  split
  · exact h
  · obtain ⟨K, RK, rfl⟩ := sameButKeys_iff.1 h
    rfl

theorem submit (h : sameButKeys s s') (w : Word) : sameButKeys (submit w s) (submit w s') := by
  unfold Machine.submit
  rw [h.checkWord]
  cases Machine.checkWord w s with
  | error c => exact h.raiseError c
  | ok i =>
    obtain ⟨K, RK, rfl⟩ := sameButKeys_iff.1 h
    rfl

theorem unlessBusy {f : State → State} (h : sameButKeys s s') (hf : sameButKeys (f s) (f s')) :
    sameButKeys (unlessBusy f s) (unlessBusy f s') := by
  unfold Machine.unlessBusy
  rw [h.busy]
  split
  · exact h.raiseError .busy
  · exact hf

theorem writeStatus (h : sameButKeys s s') (v : Word) : sameButKeys (writeStatus v s) (writeStatus v s') := by
  obtain ⟨K, RK, rfl⟩ := sameButKeys_iff.1 h
  unfold Machine.writeStatus
  cases v.getLsbD 2 <;> cases v.getLsbD 3 <;> rfl

theorem writeReg (h : sameButKeys s s') (g : Reg) (v : Word) : sameButKeys (writeReg g v s) (writeReg g v s') := by
  cases g with
  | id | reserved => exact h
  | cmd => exact h.unlessBusy (h.submit v)
  | status => exact h.writeStatus v
  | irqEn =>
    obtain ⟨K, RK, rfl⟩ := sameButKeys_iff.1 h
    rfl
  | blockIndex | key =>
    refine h.unlessBusy ?_
    obtain ⟨K, RK, rfl⟩ := sameButKeys_iff.1 h
    rfl
  | data w =>
    refine h.unlessBusy (f := fun t => setData (t.data.setWord w v) t) ?_
    obtain ⟨K, RK, rfl⟩ := sameButKeys_iff.1 h
    rfl

theorem accessReg (h : sameButKeys s s') (g : Reg) (d : Dir) : sameButKeys (accessReg g d s) (accessReg g d s') := by
  cases d with
  | read =>
    unfold Machine.accessReg
    rw [h.readReg]
    exact h.withResp _
  | write v => exact (h.writeReg g v).withResp .writeDone

/-- A reset that is asserted reads nothing of the state but its parameters and the agenda. -/
theorem accessInReset (h : sameButKeys s s') (a : Access) : sameButKeys (accessInReset a s) (accessInReset a s') := by
  obtain ⟨K, RK, rfl⟩ := sameButKeys_iff.1 h
  rfl

theorem answers (h : sameButKeys s s') : sameAnswers (.next s) (.next s') := ⟨h.resp.symm, h.irq.symm, h⟩

theorem hostAccess (h : sameButKeys s s') (a : Access) : sameAnswers (hostAccess a s) (hostAccess a s') := by
  obtain ⟨K, RK, rfl⟩ := sameButKeys_iff.1 h
  unfold Machine.hostAccess
  dsimp only
  split
  · split
    · exact (h.accessInReset a).answers
    · split
      · exact (h.accessReg _ a.dir).answers
      · exact (h.withResp _).answers
  · exact rfl

end sameButKeys

/-- Settles O43: the interrupt and the answer of the host port agree on states that differ in KEY and RK only. -/
theorem hostCannotReadKeyMaterial : Obligations.HostCannotReadKeyMaterial := fun a _ _ h =>
  ⟨h.irq.symm, h.hostAccess a⟩

end Sys2Proof.Machine
end

section
/-! SUPPORT. A block loaded by four word writes, and the byte lanes of a register word (20_memory.md R47, R48). -/

namespace Sys2Proof

/-- Copying a register word of another block copies that word's 32 flat bits. -/
theorem Block.bit_setWord_word (A B : Block) (w : Fin 4) (b : Fin 128) :
    (A.setWord w (B.word w)).bit b = if b.val / 32 = w.val then B.bit b else A.bit b := by
  rw [Block.bit_setWord]
  by_cases hw : b.val / 32 = w.val
  · have hpos : b = ⟨32 * w.val + b.val % 32, by omega⟩ := Fin.ext (by simp only; omega)
    have hbit := B.word_getLsbD_eq_bit w ⟨b.val % 32, by omega⟩
    rw [if_pos hw, if_pos hw, hbit, ← hpos]
  · rw [if_neg hw, if_neg hw]

/-- Each flat bit lies in one of the four register words, so the four words are the block, whatever stood there before. -/
theorem Block.setWord_word_all (A B : Block) :
    (((A.setWord 0 (B.word 0)).setWord 1 (B.word 1)).setWord 2 (B.word 2)).setWord 3 (B.word 3) = B := by
  apply Block.ext_bit
  intro b
  have hsome : b.val / 32 = 3 ∨ b.val / 32 = 2 ∨ b.val / 32 = 1 ∨ b.val / 32 = 0 := by omega
  simp only [Block.bit_setWord_word]
  rcases hsome with h | h | h | h <;> simp [h]

/-- Bit `j` of byte lane `k` is bit `8k + j` of the word (R48). -/
theorem byteLane_getLsbD (w : Word) (k j : Nat) (hj : j < 8) : (byteLane w k).getLsbD j = w.getLsbD (8 * k + j) := by
  simp [byteLane, hj]

/-- The four lanes in address order are the word: its base-256 digits, the lowest first (R48). -/
theorem wordOfBytes_byteLane (w : Word) :
    wordOfBytes (byteLane w 0) (byteLane w 1) (byteLane w 2) (byteLane w 3) = w := by
  apply BitVec.eq_of_toNat_eq
  simp only [wordOfBytes, byteLane, toNat_append_mul, toNat_extractLsb']
  omega

end Sys2Proof

namespace Sys2Proof.Machine

/-- Settles O47: every register is read as a word, and the two laws of byte lanes hold of any word. -/
theorem byteLanesAreLittleEndian : Obligations.ByteLanesAreLittleEndian := fun w g s k =>
  ⟨fun j => byteLane_getLsbD (readReg g s) k.val j.val j.isLt, wordOfBytes_byteLane w⟩

end Sys2Proof.Machine
end

section
/-! SUPPORT. The accesses the CORE does not serve: unsupported ones in the window, and those that begin outside it
(20_memory.md R40, R42, R43). -/

namespace Sys2Proof.Machine

variable {s : State} {a : Access}

/-- No register answers an access of another width than 32 bits or at an offset that is no multiple of 4 (R42, R43). -/
theorem reg?_eq_none {c : Config} (h : a.size ≠ 4 ∨ (a.addr - c.coreBase) % 4 ≠ 0) : a.reg? c = none := by
  unfold Access.reg?
  split
  case isTrue hsize => exact regAt_eq_none (h.resolve_left (not_not_intro hsize))
  case isFalse => rfl

theorem hostAccess_unsupported (hr : s.resetLine = false) (hw : a.inWindow s.cfg) (hg : a.reg? s.cfg = none) :
    hostAccess a s = .next { s with resp := .busError a } := by
  simp only [hostAccess, if_pos hw, hr, Bool.false_eq_true, if_false, hg]

theorem hostAccess_outside (hw : ¬ a.inWindow s.cfg) : hostAccess a s = .fault (.outsideWindow a) := if_neg hw

/-- Settles O49: an access that is too narrow, too wide or misaligned names no register. -/
theorem unsupportedAccessGetsABusError : Obligations.UnsupportedAccessGetsABusError := fun _ _ hr hlo hhi hbad =>
  ⟨hostAccess_unsupported hr ⟨hlo, hhi⟩ (reg?_eq_none hbad), rfl⟩

/-- Settles O50: an address below the window or past its end is not in it. -/
theorem accessOutsideTheWindowFaults : Obligations.AccessOutsideTheWindowFaults := by
  intro s a hout
  apply hostAccess_outside
  rintro ⟨hlo, hhi⟩
  omega

end Sys2Proof.Machine
end

section
/-! SUPPORT. Supported reads and writes by the offset they name (20_memory.md R44 to R46), and the writes that load a block
(R49, 30_encoding.md R66). -/

namespace Sys2Proof.Machine

variable {s t : State} {off : Nat} {g : Reg} {v : Word}

/-- A read returns what its register reads, and changes nothing but the response (R44). -/
theorem hostAccess_read (hr : s.resetLine = false) (hg : regAt off = some g) (hv : readReg g s = v) :
    hostAccess ⟨s.cfg.coreBase + off, 4, .read⟩ s = .next { s with resp := .readData v } := by
  rw [hostAccess_of_offset hr hg, accessReg, hv]

/-- A write does what its register's write does, and answers that it is done (R46). -/
theorem hostAccess_write (hr : s.resetLine = false) (hg : regAt off = some g) (ht : writeReg g v s = t) :
    hostAccess ⟨s.cfg.coreBase + off, 4, .write v⟩ s = .next { t with resp := .writeDone } := by
  rw [hostAccess_of_offset hr hg, accessReg, ht]

theorem unlessBusy_of_idle (hb : s.busy = false) (f : State → State) : unlessBusy f s = f s := by
  simp [unlessBusy, hb]

theorem writeReg_dropped (hb : s.busy = true) (hg : g.droppedWhileBusy = true) :
    writeReg g v s = raiseError .busy s := by
  rw [writeReg_of_busy g v hb, if_pos hg]

/-- A STATUS write as one update of the state (R46). -/
theorem writeStatus_eq (v : Word) (s : State) :
    writeStatus v s = { s with done := s.done && !v.getLsbD 2, err := s.err && !v.getLsbD 3,
                               errCode := if v.getLsbD 3 then 0 else s.errCode } := by
  unfold writeStatus
  cases v.getLsbD 2 <;> cases v.getLsbD 3 <;> simp [ackDone, ackErr]

theorem writeReg_blockIndex_of_idle (hb : s.busy = false) : writeReg .blockIndex v s = { s with blockIndex := v } :=
  unlessBusy_of_idle hb fun t => { t with blockIndex := v }

theorem writeReg_data_of_idle (hb : s.busy = false) (w : Fin 4) :
    writeReg (.data w) v s = { s with data := s.data.setWord w v } := unlessBusy_of_idle hb _

theorem writeReg_key_of_idle (hb : s.busy = false) (w : Fin 4) :
    writeReg (.key w) v s = { s with key := s.key.setWord w v, keyValid := false } := unlessBusy_of_idle hb _

/-- Settles O44: each offset names a register, and the value of the clause is what that register reads. -/
theorem readsReturnTheRegistersAndChangeNothing : Obligations.ReadsReturnTheRegistersAndChangeNothing := by
  intro s off v hr h
  rcases h with ⟨rfl, rfl⟩ | ⟨rfl, rfl⟩ | ⟨rfl, rfl⟩ | ⟨rfl, rfl⟩ | ⟨rfl, rfl⟩ | ⟨hzero, rfl⟩ | ⟨rfl, rfl⟩ | ⟨rfl, rfl⟩ |
    ⟨rfl, rfl⟩ | ⟨rfl, rfl⟩
  · exact hostAccess_read hr (g := .id) rfl rfl
  · exact hostAccess_read hr (g := .cmd) rfl rfl
  · exact hostAccess_read hr (g := .status) rfl rfl
  · exact hostAccess_read hr (g := .irqEn) rfl rfl
  · exact hostAccess_read hr (g := .blockIndex) rfl rfl
  · simp only [List.mem_cons, List.not_mem_nil, or_false] at hzero
    rcases hzero with rfl | rfl | rfl | rfl | rfl | rfl | rfl <;> exact hostAccess_read hr rfl rfl
  · exact hostAccess_read hr (g := .data 0) rfl rfl
  · exact hostAccess_read hr (g := .data 1) rfl rfl
  · exact hostAccess_read hr (g := .data 2) rfl rfl
  · exact hostAccess_read hr (g := .data 3) rfl rfl

/-- Settles O45: each offset names a register, and the state of the clause is what that register's write leaves. -/
theorem writesDoWhatTheMapSays : Obligations.WritesDoWhatTheMapSays := by
  intro s off v t hr h
  rcases h with ⟨rfl, rfl⟩ | ⟨rfl, rfl⟩ | ⟨hignored, rfl⟩ | ⟨hdropped, hb, rfl⟩ | ⟨rfl, hb, rfl⟩ | ⟨rfl, hb, rfl⟩ |
    ⟨hb, w, rfl, rfl⟩ | ⟨hb, w, rfl, rfl⟩
  · exact hostAccess_write hr (g := .status) rfl (writeStatus_eq v s)
  · exact hostAccess_write hr (g := .irqEn) rfl rfl
  · simp only [List.mem_cons, List.not_mem_nil, or_false] at hignored
    rcases hignored with rfl | rfl | rfl | rfl <;> exact hostAccess_write hr rfl rfl
  · simp only [List.mem_cons, List.not_mem_nil, or_false] at hdropped
    rcases hdropped with rfl | rfl | rfl | rfl | rfl | rfl | rfl | rfl | rfl | rfl <;>
      exact hostAccess_write hr rfl (writeReg_dropped hb rfl)
  · exact hostAccess_write hr (g := .cmd) rfl (unlessBusy_of_idle hb _)
  · exact hostAccess_write hr (g := .blockIndex) rfl (writeReg_blockIndex_of_idle hb)
  · exact hostAccess_write hr (regAt_offset (.key w)) (writeReg_key_of_idle hb w)
  · exact hostAccess_write hr (regAt_offset (.data w)) (writeReg_data_of_idle hb w)

/-- A write at the head of a run is delivered before the turns after it. -/
theorem runTurns_wrEvent (hr : s.resetLine = false) (g : Reg) (v : Word) (es : List Event) :
    runTurns (wrEvent s.cfg g v :: es) s = runTurns es { writeReg g v s with resp := .writeDone } := by
  simp only [runTurns, wrEvent, turn, hostAccess_writeOf hr, andThen]

/-- A DATA write at the head of a run, whatever the writes before it have made of DATA and of the response. -/
theorem runTurns_dataWrite (hr : s.resetLine = false) (hb : s.busy = false) (w : Fin 4) (D : Block) (r : BusResp)
    (es : List Event) :
    runTurns (wrEvent s.cfg (.data w) v :: es) { s with data := D, resp := r } =
      runTurns es { s with data := D.setWord w v, resp := .writeDone } := by
  refine (runTurns_wrEvent (s := { s with data := D, resp := r }) hr (.data w) v es).trans ?_
  rw [writeReg_data_of_idle]
  exact hb

/-- The first KEY write of a run clears KEY_VALID, and the later ones find it cleared (R22). -/
theorem runTurns_keyWrite (hr : s.resetLine = false) (hb : s.busy = false) (w : Fin 4) (K : Block) (valid : Bool)
    (r : BusResp) (es : List Event) :
    runTurns (wrEvent s.cfg (.key w) v :: es) { s with key := K, keyValid := valid, resp := r } =
      runTurns es { s with key := K.setWord w v, keyValid := false, resp := .writeDone } := by
  refine (runTurns_wrEvent (s := { s with key := K, keyValid := valid, resp := r }) hr (.key w) v es).trans ?_
  rw [writeReg_key_of_idle]
  exact hb

theorem runTurns_ldblk (hr : s.resetLine = false) (hb : s.busy = false) (B : Block) :
    runTurns (HostLine.expand s.cfg (.ldblk B)) s = .next { s with data := B, resp := .writeDone } := by
  rw [HostLine.expand, runTurns_dataWrite hr hb 0 s.data s.resp, runTurns_dataWrite hr hb, runTurns_dataWrite hr hb,
    runTurns_dataWrite hr hb, Block.setWord_word_all, runTurns]

theorem runTurns_ldkey (hr : s.resetLine = false) (hb : s.busy = false) (K : Block) :
    runTurns (HostLine.expand s.cfg (.ldkey K)) s = .next { s with key := K, keyValid := false, resp := .writeDone } := by
  rw [HostLine.expand, runTurns_keyWrite hr hb 0 s.key s.keyValid s.resp, runTurns_keyWrite hr hb,
    runTurns_keyWrite hr hb, runTurns_keyWrite hr hb, Block.setWord_word_all, runTurns]

/-- Settles O48: the four writes of `LDBLK` and of `LDKEY`, each on an idle CORE. -/
theorem fourWritesLoadABlock : Obligations.FourWritesLoadABlock := fun _ B hr hb =>
  ⟨runTurns_ldblk hr hb B, runTurns_ldkey hr hb B⟩

end Sys2Proof.Machine
end

section
/-! SUPPORT. Decoding stated three ways: by the digits of the word (30_encoding.md R64), by the command's own word (R60), and by
the match/mask table (R63). -/

namespace Sys2Proof

section
variable {w : Word} {i : Instr}

/-! ### The commands of each format -/

theorem formatC0_eq_some_iff {o : BitVec 4} : formatC0 o = some i ↔ i.rnd? = none ∧ i.opcode = o := by
  constructor
  · intro h
    unfold formatC0 at h
    split at h <;> cases h <;> exact ⟨rfl, BitVec.eq_of_toNat_eq (Eq.symm ‹_›)⟩
  · rintro ⟨h, rfl⟩
    cases i <;> cases h <;> rfl

theorem formatCR_eq_some_iff {o r : BitVec 4} : formatCR o r = some i ↔ i.rnd? = some r ∧ i.opcode = o := by
  constructor
  · intro h
    unfold formatCR at h
    split at h <;> cases h <;> exact ⟨rfl, BitVec.eq_of_toNat_eq (Eq.symm ‹_›)⟩
  · rintro ⟨h, rfl⟩
    cases i <;> cases h <;> rfl

/-- The opcodes of format C0 (R64). -/
theorem formatC0_isSome_iff {o : BitVec 4} : (formatC0 o).isSome = true ↔ o.toNat ∈ [0, 1, 2, 3, 12] := by
  revert o
  decide

/-- The opcodes of format CR (R64). -/
theorem formatCR_isSome_iff {o r : BitVec 4} : (formatCR o r).isSome = true ↔ 4 ≤ o.toNat ∧ o.toNat ≤ 11 := by
  revert o r
  decide

/-- All that decoding can answer, by the digits of the word, one case per line of R64's `decode`. -/
theorem decode_cases (w : Word) :
    (w.toNat % 16 ∈ [0, 1, 2, 3, 12] ∧ ∃ i, i.rnd? = none ∧ i.opcode = fieldOpc w ∧
      decode w = if w.toNat / 16 = 0 then .command i else .illegalCmd) ∨
    ((4 ≤ w.toNat % 16 ∧ w.toNat % 16 ≤ 11) ∧ ∃ i, i.rnd? = some (fieldRnd w) ∧ i.opcode = fieldOpc w ∧
      decode w = if w.toNat / 4096 = 0 ∧ w.toNat / 16 % 16 = 0 then
          if 9 < w.toNat / 256 % 16 then .badRound else .command i
        else .illegalCmd) ∨
    (13 ≤ w.toNat % 16 ∧ decode w = .illegalCmd) := by
  have hisC0 := formatC0_isSome_iff (o := fieldOpc w)
  have hisCR := formatCR_isSome_iff (o := fieldOpc w) (r := fieldRnd w)
  rw [fieldOpc_toNat] at hisC0 hisCR
  cases h0 : formatC0 (fieldOpc w) with
  | some i =>
    obtain ⟨hrnd, hopc⟩ := formatC0_eq_some_iff.1 h0
    exact .inl ⟨hisC0.1 (by rw [h0]; rfl), i, hrnd, hopc, decode_formatC0 h0⟩
  | none =>
    cases hr : formatCR (fieldOpc w) (fieldRnd w) with
    | some i =>
      obtain ⟨hrnd, hopc⟩ := formatCR_eq_some_iff.1 hr
      exact .inr (.inl ⟨hisCR.1 (by rw [hr]; rfl), i, hrnd, hopc, decode_formatCR h0 hr⟩)
    | none =>
      simp only [h0, hr, Option.isSome_none, Bool.false_eq_true, false_iff, List.mem_cons, List.not_mem_nil,
        or_false] at hisC0 hisCR
      exact .inr (.inr ⟨by omega, decode_reserved h0 hr⟩)

theorem decode_eq_illegalCmd_iff (w : Word) : decode w = .illegalCmd ↔
    (w.toNat % 16 ∈ [0, 1, 2, 3, 12] ∧ w.toNat / 16 ≠ 0) ∨
    (4 ≤ w.toNat % 16 ∧ w.toNat % 16 ≤ 11 ∧ (w.toNat / 4096 ≠ 0 ∨ w.toNat / 16 % 16 ≠ 0)) ∨
    13 ≤ w.toNat % 16 := by
  simp only [List.mem_cons, List.not_mem_nil, or_false]
  rcases decode_cases w with ⟨hopc, i, -, -, h⟩ | ⟨hopc, i, -, -, h⟩ | ⟨hopc, h⟩
  · simp only [List.mem_cons, List.not_mem_nil, or_false] at hopc
    rw [h]
    split_ifs <;> simp only [false_iff, true_iff] <;> omega
  · rw [h]
    split_ifs <;> simp only [false_iff, true_iff] <;> omega
  · simp only [h, true_iff]
    omega

theorem decode_eq_badRound_iff (w : Word) : decode w = .badRound ↔
    4 ≤ w.toNat % 16 ∧ w.toNat % 16 ≤ 11 ∧ w.toNat / 4096 = 0 ∧ w.toNat / 16 % 16 = 0 ∧ 9 < w.toNat / 256 % 16 := by
  rcases decode_cases w with ⟨hopc, i, -, -, h⟩ | ⟨hopc, i, -, -, h⟩ | ⟨hopc, h⟩
  · simp only [List.mem_cons, List.not_mem_nil, or_false] at hopc
    rw [h]
    split_ifs <;> simp only [false_iff] <;> omega
  · rw [h]
    split_ifs <;> simp only [false_iff, true_iff] <;> omega
  · simp only [h, reduceCtorEq, false_iff]
    omega

/-! ### The command's own word -/

/-- Every command's word has the command's fields (R60). -/
theorem encode_fields (i : Instr) : Laws.Encoding.Statement i := by
  cases i with
  | nop => exact Laws.Encoding.nop
  | expandKey => exact Laws.Encoding.expandKey
  | encrypt => exact Laws.Encoding.encrypt
  | decrypt => exact Laws.Encoding.decrypt
  | perm r => exact Laws.Encoding.perm r
  | invPerm r => exact Laws.Encoding.invPerm r
  | mix r => exact Laws.Encoding.mix r
  | invMix r => exact Laws.Encoding.invMix r
  | diff r => exact Laws.Encoding.diff r
  | invDiff r => exact Laws.Encoding.invDiff r
  | roundFwd r => exact Laws.Encoding.roundFwd r
  | roundInv r => exact Laws.Encoding.roundInv r
  | zeroize => exact Laws.Encoding.zeroize

/-- Words with the same four fields are the same. -/
theorem word_ext {v w : Word} (hopc : fieldOpc v = fieldOpc w) (hrnd : fieldRnd v = fieldRnd w)
    (hhi : fieldResHi v = fieldResHi w) (hlo : fieldResLo v = fieldResLo w) : v = w := by
  rw [word_eq_fields v, word_eq_fields w, hopc, hrnd, hhi, hlo]

theorem encode_eq_iff : encode i = w ↔
    i.opcode = fieldOpc w ∧ i.rnd?.getD 0 = fieldRnd w ∧ fieldResHi w = 0 ∧ fieldResLo w = 0 := by
  obtain ⟨hopc, hrnd, hhi, hlo⟩ := encode_fields i
  constructor
  · rintro rfl
    exact ⟨hopc.symm, hrnd.symm, hhi, hlo⟩
  · rintro ⟨hopc', hrnd', hhi', hlo'⟩
    exact word_ext (hopc.trans hopc') (hrnd.trans hrnd') (hhi.trans hhi'.symm) (hlo.trans hlo'.symm)

theorem Instr.wf_of_rnd_none (h : i.rnd? = none) : i.wf = true := by rw [Instr.wf, h]

theorem Instr.wf_of_rnd_some {r : BitVec 4} (h : i.rnd? = some r) : i.wf = decide (roundOk r) := by rw [Instr.wf, h]

theorem formatC0_of_rnd_some {r : BitVec 4} (h : i.rnd? = some r) : formatC0 i.opcode = none := by
  cases i <;> cases h <;> rfl

theorem decode_encode (h : i.wf = true) : decode (encode i) = .command i := by
  obtain ⟨hopc, hrnd, hhi, hlo⟩ := encode_fields i
  have hhi0 := (fieldResHi_eq_zero_iff _).1 hhi
  have hlo0 := (fieldResLo_eq_zero_iff _).1 hlo
  have hdigit := fieldRnd_toNat (encode i)
  cases hr : i.rnd? with
  | none =>
    rw [hrnd, hr, Option.getD_none, BitVec.ofNat_eq_ofNat, BitVec.toNat_zero] at hdigit
    rw [decode_formatC0 (formatC0_eq_some_iff.2 ⟨hr, hopc.symm⟩), if_pos (by omega)]
  | some r =>
    rw [hr, Option.getD_some] at hrnd
    have hround : r.toNat ≤ 9 := by simpa [Instr.wf_of_rnd_some hr] using h
    rw [hrnd] at hdigit
    rw [decode_formatCR (by rw [hopc, formatC0_of_rnd_some hr])
        (formatCR_eq_some_iff.2 ⟨hr.trans (congrArg some hrnd.symm), hopc.symm⟩),
      if_pos ⟨hhi0, hlo0⟩, if_neg (by omega)]

/-- A command's own word is the only one that decodes to it, and does so if its round is one of 0 to 9 (R61, R63). -/
theorem decode_eq_command_iff : decode w = .command i ↔ i.wf = true ∧ encode i = w := by
  refine ⟨fun h => ?_, fun ⟨hwf, hw⟩ => hw ▸ decode_encode hwf⟩
  rw [encode_eq_iff, BitVec.ofNat_eq_ofNat, BitVec.ofNat_eq_ofNat, fieldResHi_eq_zero_iff, fieldResLo_eq_zero_iff]
  rcases decode_cases w with ⟨-, j, hrnd, hopc, hj⟩ | ⟨-, j, hrnd, hopc, hj⟩ | ⟨-, hj⟩ <;> rw [hj] at h
  · split_ifs at h with hres
    cases h
    have hzero : fieldRnd w = 0 := BitVec.eq_of_toNat_eq ((fieldRnd_toNat w).trans (by simp; omega))
    exact ⟨Instr.wf_of_rnd_none hrnd, hopc, by rw [hrnd, hzero]; rfl, by omega, by omega⟩
  · split_ifs at h with hres hround
    cases h
    have hok : roundOk (fieldRnd w) := by rw [roundOk, fieldRnd_toNat]; omega
    exact ⟨by rw [Instr.wf_of_rnd_some hrnd, decide_eq_true hok], hopc, by rw [hrnd]; rfl, hres⟩
  · cases h

/-! ### The match/mask table -/

theorem Instr.row_of_rnd_none (h : i.rnd? = none) : i.row = ⟨encode i, 0xFFFFFFFF, false⟩ := by
  cases i <;> cases h <;> rfl

theorem Instr.row_of_rnd_some {r : BitVec 4} (h : i.rnd? = some r) :
    i.row = ⟨i.opcode.setWidth 32, 0xFFFFF0FF, true⟩ := by
  cases i <;> cases h <;> rfl

theorem Instr.row_mem_opcodeRows (i : Instr) : i.row ∈ opcodeRows := by
  cases i <;> simp [Instr.row, opcodeRows]

/-- The mask of a format CR row keeps every field but the round. -/
theorem fields_of_masked (w : Word) :
    fieldOpc (w &&& 0xFFFFF0FF) = fieldOpc w ∧ fieldRnd (w &&& 0xFFFFF0FF) = 0 ∧
    fieldResHi (w &&& 0xFFFFF0FF) = fieldResHi w ∧ fieldResLo (w &&& 0xFFFFF0FF) = fieldResLo w := by
  simp only [fieldOpc, fieldRnd, fieldResHi, fieldResLo, BitVec.extractLsb'_and]
  exact ⟨BitVec.and_allOnes, BitVec.and_zero, BitVec.and_allOnes, BitVec.and_allOnes⟩

/-- A word masked by a format CR row is an opcode exactly when it has that opcode and its must-be-0 fields are 0. -/
theorem masked_eq_opcode_iff {o : BitVec 4} :
    w &&& 0xFFFFF0FF = o.setWidth 32 ↔ o = fieldOpc w ∧ fieldResHi w = 0 ∧ fieldResLo w = 0 := by
  obtain ⟨hopc, hrnd, hhi, hlo⟩ := fields_of_masked w
  obtain ⟨hopc', hrnd', hhi', hlo'⟩ := Laws.Encoding.fields_of_cr o 0
  rw [show (BitVec.setWidth 32 (0 : BitVec 4)) <<< 8 ||| o.setWidth 32 = o.setWidth 32 from BitVec.zero_or]
    at hopc' hrnd' hhi' hlo'
  constructor
  · intro h
    rw [h] at hopc hhi hlo
    exact ⟨hopc'.symm.trans hopc, hhi.symm.trans hhi', hlo.symm.trans hlo'⟩
  · rintro ⟨rfl, hhi0, hlo0⟩
    exact word_ext (hopc.trans hopc'.symm) (hrnd.trans hrnd'.symm) ((hhi.trans hhi0).trans hhi'.symm)
      ((hlo.trans hlo0).trans hlo'.symm)

/-- A word selects a command's row, with its round in bits 11:8, exactly when it is the command's own word (R63). -/
theorem row_selects_iff : i.row.selects w = true ∧ (∀ r, i.rnd? = some r → r = fieldRnd w) ↔
    i.wf = true ∧ encode i = w := by
  cases hr : i.rnd? with
  | none =>
    have hmask : w &&& 0xFFFFFFFF = w := BitVec.and_allOnes
    simp only [OpRow.selects, Instr.row_of_rnd_none hr, Instr.wf_of_rnd_none hr, hmask, Bool.not_false, Bool.true_or,
      Bool.and_true, beq_iff_eq, reduceCtorEq, false_implies, implies_true, and_true, true_and, eq_comm (a := w)]
  | some r =>
    simp only [OpRow.selects, Instr.row_of_rnd_some hr, Instr.wf_of_rnd_some hr, encode_eq_iff, hr, Bool.and_eq_true,
      beq_iff_eq, masked_eq_opcode_iff, Bool.not_true, Bool.false_or, decide_eq_true_eq, Option.some.injEq,
      forall_eq', Option.getD_some]
    constructor
    · rintro ⟨⟨⟨hopc, hhi, hlo⟩, hok⟩, rfl⟩
      exact ⟨hok, hopc, rfl, hhi, hlo⟩
    · rintro ⟨hok, hopc, rfl, hhi, hlo⟩
      exact ⟨⟨⟨hopc, hhi, hlo⟩, hok⟩, rfl⟩

end

end Sys2Proof

namespace Sys2Proof.Machine

/-- Settles O3: decoding to a command and selecting its row both say that the word is the command's own. -/
theorem decodeIsTheMaskTable : Obligations.DecodeIsTheMaskTable := fun _ i =>
  ⟨decode_eq_command_iff.trans row_selects_iff.symm, fun h => (decode_eq_command_iff.1 h).2, i.row_mem_opcodeRows⟩

/-- Settles O4: the two rejections by the digits of the word, and a command's fields in its own word. -/
theorem decodeByFields : Obligations.DecodeByFields := by
  intro w
  refine ⟨decode_eq_illegalCmd_iff w, decode_eq_badRound_iff w, fun i h => ?_⟩
  obtain ⟨hopc, hrnd, -, -⟩ := encode_eq_iff.1 (decode_eq_command_iff.1 h).2
  refine ⟨by rw [hopc, fieldOpc_toNat], fun r hr => ?_⟩
  rw [hr, Option.getD_some] at hrnd
  rw [hrnd, fieldRnd_toNat]

/-- Settles O1: eleven words of the spec, evaluated. -/
theorem specWordsDecodeAsListed : Obligations.SpecWordsDecodeAsListed := by
  unfold Obligations.SpecWordsDecodeAsListed
  decide

end Sys2Proof.Machine
end

section
/-! SUPPORT. Commands whose round field names no round (30_encoding.md R61; log entry 6). -/

namespace Sys2Proof.Machine

variable {i : Instr} {rnd : BitVec 4}

theorem rnd?_of_mem_crCommands (h : i ∈ crCommands rnd) : i.rnd? = some rnd := by
  simp only [crCommands, List.mem_cons, List.not_mem_nil, or_false] at h
  rcases h with rfl | rfl | rfl | rfl | rfl | rfl | rfl | rfl <;> rfl

/-- An ill-formed command answers a next state, and of all that a completion can do only the error record is left. -/
theorem exec_of_not_wf (h : i.wf = false) (s : State) : exec i s = .next (raiseError .badRound s) := by
  obtain ⟨t, ht⟩ := exec_next i s
  rcases exec_cases ht with ⟨rfl, -⟩ | ⟨rfl, -⟩ | ⟨rfl, -⟩ | ⟨hwf, -⟩ | ⟨-, rfl⟩
  · cases h
  · cases h
  · cases h
  · simp [h] at hwf
  · exact ht

/-- Settles O36: such a command is ill-formed. -/
theorem outOfRangeRoundOnlyRecordsBadRound : Obligations.OutOfRangeRoundOnlyRecordsBadRound := by
  intro rnd i s hout hi
  have hwf : i.wf = false := by
    rw [Instr.wf_of_rnd_some (rnd?_of_mem_crCommands hi), decide_eq_false (Nat.not_le.2 hout)]
  exact ⟨exec_of_not_wf hwf s, hwf⟩

end Sys2Proof.Machine
end

section
/-! SUPPORT. Submitting a format C0 command (45_control.md R160). -/

namespace Sys2Proof

/-- A format C0 command's own word is its opcode alone (R60). -/
theorem encode_of_rnd_none {i : Instr} (h : i.rnd? = none) : encode i = BitVec.ofNat 32 i.opcode.toNat := by
  cases i <;> cases h <;> rfl

theorem opcode_of_rnd_none {i : Instr} (h : i.rnd? = none) : i.opcode.toNat ∈ [0, 1, 2, 3, 12] :=
  formatC0_isSome_iff.1 (by rw [formatC0_eq_some_iff.2 ⟨h, rfl⟩]; rfl)

end Sys2Proof

namespace Sys2Proof.Machine

/-- Every format C0 command is submitted by its opcode alone, keyed if the command needs a key (R60, R160). -/
theorem submitsC0_of_rnd_none {i : Instr} (h : i.rnd? = none) : submitsC0 i i.opcode.toNat (needsKey i) := by
  have hown : decode (BitVec.ofNat 32 i.opcode.toNat) = .command i :=
    decode_eq_command_iff.2 ⟨Instr.wf_of_rnd_none h, encode_of_rnd_none h⟩
  intro s
  refine ⟨submit_of_busy, (submit_of_noKey · hown), (submit_of_command · hown), fun hidle w hopc hne => ?_⟩
  exact submit_of_illegal hidle <| (decode_eq_illegalCmd_iff w).2 (.inl ⟨hopc ▸ opcode_of_rnd_none h, by omega⟩)

end Sys2Proof.Machine
end

section
/-! SUPPORT. The key schedule and EXPAND_KEY (40_key_schedule.md R80 to R82). -/

namespace Sys2Proof.Machine

/-- `ksSeg` in exact integers (R80). -/
theorem ksSeg_toNat (c m : Seg) (r : Fin 10) :
    (ksSeg c m r).toNat = ((m.toNat ^^^ ((r.val + 1) * c.toNat % 65536)) + r.val) % 65536 := by
  have hprod : (BitVec.ofNat 16 (r.val + 1) * c).toNat = (r.val + 1) * c.toNat % 65536 := by
    rw [BitVec.toNat_mul, BitVec.toNat_ofNat, Nat.mod_mul_mod]
  rw [ksSeg, BitVec.toNat_add, BitVec.toNat_xor, hprod, BitVec.toNat_ofNat, Nat.add_mod_mod]

theorem expandKey_get (c : Seg) (K : Block) (r : Fin 10) (i : Fin 8) : (expandKey c K)[r][i] = ksSeg c K[i] r := by
  rw [expandKey, RoundKeys.ofFn_get, Block.ofFn_get]

/-- Settles O5: a format C0 command that needs no key, and each segment of its schedule in exact integers. -/
theorem expandKeyDerivesTheRoundKeys : Obligations.ExpandKeyDerivesTheRoundKeys :=
  ⟨submitsC0_of_rnd_none (i := .expandKey) rfl, fun s =>
    ⟨expandKey s.cfg.ksC s.key, exec_expandKey s, fun r i => by rw [expandKey_get, ksSeg_toNat]⟩⟩

/-- A number and the next one differ in a run of ones from bit 0 up, the carry: plus 1, it divides a power of 2. -/
theorem xor_succ_succ_dvd (n y : Nat) (h : y + 1 < 2 ^ n) : (y ^^^ (y + 1)) + 1 ∣ 2 ^ n := by
  induction n generalizing y with
  | zero => omega
  | succ n ih =>
    have hbit : (y ^^^ (y + 1)) % 2 = 1 := by rw [Nat.xor_mod_two_eq]; omega
    have hrest : (y ^^^ (y + 1)) / 2 = y / 2 ^^^ (y + 1) / 2 := Nat.xor_div_two
    rw [Nat.pow_succ] at h ⊢
    rcases Nat.mod_two_eq_zero_or_one y with heven | hodd
    · rw [show (y + 1) / 2 = y / 2 by omega, Nat.xor_self] at hrest
      rw [show (y ^^^ (y + 1)) + 1 = 2 by omega]
      exact Nat.dvd_mul_left 2 _
    · rw [show (y + 1) / 2 = y / 2 + 1 by omega] at hrest
      rw [show (y ^^^ (y + 1)) + 1 = ((y / 2 ^^^ (y / 2 + 1)) + 1) * 2 by omega]
      exact Nat.mul_dvd_mul_right (ih _ (by omega)) 2

/-- Two segments that an addition of less than 16 to each makes equal differ, above their low 4 bits, in a run of ones: there
they are equal or neighbours, modulo 2^12. -/
theorem xor_div_succ_dvd_of_add_eq {x y a b : Nat} (hx : x < 65536) (hy : y < 65536) (ha : a < 16) (hb : b < 16)
    (h : (x + a) % 65536 = (y + b) % 65536) : (x ^^^ y) / 16 + 1 ∣ 4096 := by
  rw [show (x ^^^ y) / 16 = x / 16 ^^^ y / 16 from Nat.xor_div_two_pow (n := 4)]
  obtain heq | hup | hdown | hwrap | hwrap :
      x / 16 = y / 16 ∨ y / 16 = x / 16 + 1 ∨ x / 16 = y / 16 + 1 ∨
      (x / 16 = 0 ∧ y / 16 = 4095) ∨ (x / 16 = 4095 ∧ y / 16 = 0) := by omega
  · rw [heq, Nat.xor_self]; exact Nat.one_dvd _
  · rw [hup]; exact xor_succ_succ_dvd 12 _ (by omega)
  · rw [hdown, Nat.xor_comm]; exact xor_succ_succ_dvd 12 _ (by omega)
  · rw [hwrap.1, hwrap.2]; decide
  · rw [hwrap.1, hwrap.2]; decide

/-- With the default `KS_C`, the products of two rounds differ above their low 4 bits in no run of ones. -/
theorem eq_of_ksProducts_xor_dvd : ∀ r r' : Fin 10,
    (((r.val + 1) * 0x9E37 % 65536) ^^^ ((r'.val + 1) * 0x9E37 % 65536)) / 16 + 1 ∣ 4096 → r = r' := by decide

theorem ksSeg_round_injective (m : Seg) {r r' : Fin 10} (h : ksSeg 0x9E37 m r = ksSeg 0x9E37 m r') : r = r' := by
  have hsum := congrArg BitVec.toNat h
  rw [ksSeg_toNat, ksSeg_toNat] at hsum
  have hxor (p : Nat) : m.toNat ^^^ (p % 65536) < 65536 :=
    Nat.xor_lt_two_pow (n := 16) m.isLt (Nat.mod_lt _ (by decide))
  have hrun := xor_div_succ_dvd_of_add_eq (hxor _) (hxor _) (by omega) (by omega) hsum
  rw [Nat.xor_comm m.toNat, Nat.xor_assoc, Nat.xor_xor_cancel_left] at hrun
  exact eq_of_ksProducts_xor_dvd r r' hrun

/-- Settles O6: the schedule by segment, and the products of the rounds told apart by the carry of the sum with `r`. -/
theorem roundKeysDifferAcrossRounds : Obligations.RoundKeysDifferAcrossRounds :=
  ⟨expandKey_get, fun m _ _ => ksSeg_round_injective m⟩

end Sys2Proof.Machine
end

section
/-! SUPPORT. Submitting a format CR command (45_control.md R160). -/

namespace Sys2Proof

/-- A format CR command's own word is its round field in bits 11:8 above its opcode (R60). -/
theorem encode_of_rnd_some {i : Instr} {r : BitVec 4} (h : i.rnd? = some r) :
    encode i = BitVec.ofNat 32 (r.toNat * 256 + i.opcode.toNat) := by
  have hw : (BitVec.ofNat 32 (r.toNat * 256 + i.opcode.toNat)).toNat = r.toNat * 256 + i.opcode.toNat := by
    rw [BitVec.toNat_ofNat]; omega
  refine encode_eq_iff.2 ⟨BitVec.eq_of_toNat_eq ?_, h ▸ BitVec.eq_of_toNat_eq ?_,
    (fieldResHi_eq_zero_iff _).2 ?_, (fieldResLo_eq_zero_iff _).2 ?_⟩
  · rw [fieldOpc_toNat, hw]; omega
  · rw [fieldRnd_toNat, hw, Option.getD_some]; omega
  · rw [hw]; omega
  · rw [hw]; omega

end Sys2Proof

namespace Sys2Proof.Machine

theorem rndOf_toNat (r : Fin 10) : (rndOf r).toNat = r.val := by
  rw [rndOf, BitVec.toNat_ofNat]; omega

/-- Every format CR command is submitted by its round and opcode, keyed if the command needs a key (R60, R61, R160). -/
theorem submitsCR_of_formatCR {command : BitVec 4 → Instr} {opc : BitVec 4} {keyed : Bool}
    (hcmd : ∀ r, formatCR opc r = some (command r)) (hkey : ∀ r, needsKey (command r) = keyed) :
    submitsCR command opc.toNat keyed := by
  have hown (r : Fin 10) : decode (BitVec.ofNat 32 (r.val * 256 + opc.toNat)) = .command (command (rndOf r)) := by
    obtain ⟨hrnd, hopc⟩ := formatCR_eq_some_iff.1 (hcmd (rndOf r))
    have hround : roundOk (rndOf r) := by rw [roundOk, rndOf_toNat]; omega
    refine decode_eq_command_iff.2 ⟨by rw [Instr.wf_of_rnd_some hrnd, decide_eq_true hround], ?_⟩
    rw [encode_of_rnd_some hrnd, hopc, rndOf_toNat]
  obtain ⟨hlo, hhi⟩ := (formatCR_isSome_iff (o := opc) (r := 0)).1 (by rw [hcmd]; rfl)
  intro s
  refine ⟨fun hbusy _ => submit_of_busy hbusy,
    fun hidle hk hv r => submit_of_noKey hidle (hown r) ((hkey _).trans hk) hv,
    fun hidle hv r => submit_of_command hidle (hown r) (hkey _ ▸ hv),
    fun hidle w hopc hres => ?_, fun hidle w hopc hresHi hresLo hround => ?_⟩
  · exact submit_of_illegal hidle <| (decode_eq_illegalCmd_iff w).2 (.inr (.inl (hopc ▸ ⟨hlo, hhi, hres⟩)))
  · exact submit_of_badRound hidle <| (decode_eq_badRound_iff w).2 (hopc ▸ ⟨hlo, hhi, hresHi, hresLo, hround⟩)

end Sys2Proof.Machine
end

section
/-! SUPPORT. The permutation generator: its seed, its step, and the shuffle it draws (41_permutation.md R90 to R95). -/

namespace Sys2Proof.Machine

theorem roundSeed_toNat (c : Word) (r : Fin 10) : (roundSeed c r).toNat = c.toNat ^^^ r.val := by
  rw [roundSeed, BitVec.toNat_xor, BitVec.toNat_ofNat, Nat.mod_eq_of_lt (by omega)]

theorem seedState_toNat (c : Word) (r : Fin 10) (idx : Word) :
    (seedState c r idx).toNat = idx.toNat * 4294967296 + (c.toNat ^^^ r.val) := by
  simp only [seedState, toNat_append_mul, roundSeed_toNat, Nat.reducePow]

theorem roundSeed_injective (c : Word) {r r' : Fin 10} (h : roundSeed c r = roundSeed c r') : r = r' := by
  have hxor := congrArg BitVec.toNat h
  rw [roundSeed_toNat, roundSeed_toNat] at hxor
  exact Fin.ext (Nat.xor_right_injective hxor)

/-- Settles O7: the block index and the round seed are the two halves of the state, and the seed XORs the round in. -/
theorem seedStatesAreDistinct : Obligations.SeedStatesAreDistinct := by
  intro c r r' idx idx'
  refine ⟨seedState_toNat c r idx, fun h => ?_⟩
  have hhalves := congrArg BitVec.toNat h
  simp only [seedState, toNat_append_mul] at hhalves
  have hseed : roundSeed c r = roundSeed c r' := BitVec.eq_of_toNat_eq (by omega)
  exact ⟨roundSeed_injective c hseed, BitVec.eq_of_toNat_eq (by omega)⟩

theorem lcgNext_toNat (S : BitVec 64) :
    (lcgNext S).toNat = (6364136223846793005 * S.toNat + 1442695040888963407) % 18446744073709551616 := by
  rw [lcgNext, BitVec.toNat_add, BitVec.toNat_mul, Nat.mod_add_mod]
  rfl

theorem lcgOut_toNat (S : BitVec 64) : (lcgOut S).toNat = S.toNat / 4294967296 := by
  rw [lcgOut, toNat_extractLsb']; omega

/-- Settles O8. -/
theorem generatorStep : Obligations.GeneratorStep := fun S => ⟨lcgNext_toNat S, lcgOut_toNat S⟩

/-- Every index drawn at step `i` is in `0..i`, since the output is less than `2^32` (R93). -/
theorem drawIndex_le (x : Word) (i : Nat) : drawIndex x i ≤ i := by
  rw [drawIndex_eq_div]
  refine Nat.lt_succ_iff.1 (Nat.div_lt_of_lt_mul ?_)
  exact Nat.mul_lt_mul_of_pos_right x.isLt (Nat.succ_pos i)

/-- One step of the shuffle with both indices named as positions of the table (R93). -/
theorem shuffleFrom_succ_swap (i : Nat) (hi : i + 1 < 128) (S : BitVec 64) (P : PermTable) :
    ∃ j : Fin 128, j.val = drawIndex (lcgOut (lcgNext S)) (i + 1) ∧
      shuffleFrom (i + 1) S P =
        shuffleFrom i (lcgNext S) (P.swapIfInBounds (⟨i + 1, hi⟩ : Fin 128).val j.val) :=
  ⟨⟨_, (drawIndex_le _ _).trans_lt hi⟩, rfl, shuffleFrom_succ i S P⟩

theorem PermTable.bijective_iff (P : PermTable) : P.bijective ↔ Function.Bijective fun b : Fin 128 => P[b] :=
  (Function.bijective_iff_existsUnique _).symm

theorem PermTable.bijective_idTable : idTable.bijective := by
  rw [PermTable.bijective_iff]
  simpa only [idTable, Fin.getElem_fin, Vector.getElem_ofFn] using Function.bijective_id

/-- A swap reads the table through a transposition of its positions, which is a bijection. -/
theorem PermTable.bijective_swap {P : PermTable} (h : P.bijective) (i j : Fin 128) :
    PermTable.bijective (P.swapIfInBounds i.val j.val) := by
  have hswap (b : Fin 128) : (P.swapIfInBounds i.val j.val)[b] = P[Equiv.swap i j b] := by
    simp only [getElem_swapIfInBounds, Equiv.swap_apply_def]
    split_ifs <;> rfl
  rw [PermTable.bijective_iff] at h ⊢
  simp only [hswap]
  exact h.comp (Equiv.swap i j).bijective

theorem PermTable.bijective_shuffleFrom {i : Nat} (hi : i < 128) (S : BitVec 64) {P : PermTable} (h : P.bijective) :
    (shuffleFrom i S P).bijective := by
  induction i generalizing S P with
  | zero => rwa [shuffleFrom_zero]
  | succ i ih =>
    obtain ⟨j, -, hstep⟩ := shuffleFrom_succ_swap i hi S P
    rw [hstep]
    exact ih (Nat.lt_of_succ_lt hi) _ (PermTable.bijective_swap h ⟨i + 1, hi⟩ j)

/-- Every table of the generator is a bijection (R95). -/
theorem PermTable.bijective_permTable (c : Word) (r : Fin 10) (idx : Word) : (permTable c r idx).bijective := by
  rw [permTable_eq]
  exact PermTable.bijective_shuffleFrom (by decide) _ PermTable.bijective_idTable

/-- Settles O9: the equations of the shuffle, and a bijection because it starts at the identity and only swaps. -/
theorem everyPermutationIsABijection : Obligations.EveryPermutationIsABijection := by
  refine ⟨fun c r idx => ⟨permTable_eq c r idx, PermTable.bijective_permTable c r idx⟩, fun b => by simp [idTable],
    shuffleFrom_zero, ?_, fun x i => ⟨drawIndex_eq_div x i, drawIndex_le x i⟩⟩
  rintro ⟨_ | i, hi⟩ S P hpos
  · exact absurd hpos (by simp)
  · obtain ⟨j, hj, hstep⟩ := shuffleFrom_succ_swap i hi S P
    exact ⟨j, _, hstep, hj.trans (drawIndex_eq_div _ _), getElem_swapIfInBounds P ⟨i + 1, hi⟩ j⟩

end Sys2Proof.Machine
end

section
/-! SUPPORT. The bit-permutation layer, PERM and INV_PERM (41_permutation.md R98 to R101). -/

namespace Sys2Proof.Machine

theorem mem_bitOrder (b : Fin 128) : b ∈ bitOrder := List.mem_finRange b

/-- `applyPerm` writes the positions `P[b]`, each once if the table is a bijection (R98). -/
theorem bit_applyPerm (B : Block) {P : PermTable} (h : P.bijective) (b : Fin 128) :
    (applyPerm B P).bit P[b] = B.bit b := by
  have hinj := (P.bijective_iff.1 h).injective
  unfold applyPerm
  exact (Block.bit_foldl_setBit (fun c => P[c]) B.bit hinj _ _ b).trans (if_pos (mem_bitOrder b))

/-- `applyInvPerm` writes every position once, whatever the table (R99). -/
theorem bit_applyInvPerm (B : Block) (P : PermTable) (b : Fin 128) : (applyInvPerm B P).bit b = B.bit P[b] := by
  unfold applyInvPerm
  exact (Block.bit_foldl_setBit id (fun c => B.bit P[c]) Function.injective_id _ _ b).trans
    (if_pos (mem_bitOrder b))

theorem applyInvPerm_applyPerm (B : Block) {P : PermTable} (h : P.bijective) : applyInvPerm (applyPerm B P) P = B :=
  Block.ext_bit fun b => by rw [bit_applyInvPerm, bit_applyPerm B h]

theorem applyPerm_applyInvPerm (B : Block) {P : PermTable} (h : P.bijective) : applyPerm (applyInvPerm B P) P = B := by
  refine Block.ext_bit fun v => ?_
  obtain ⟨b, rfl, -⟩ := h v
  rw [bit_applyPerm _ h, bit_applyInvPerm]

/-- Settles O10. -/
theorem applyPermMovesEachBit : Obligations.ApplyPermMovesEachBit := fun B _ h b => bit_applyPerm B h b

/-- Settles O11: gathering reads back what moving wrote, and every position is some `P[b]`. -/
theorem applyInvPermIsTheInverse : Obligations.ApplyInvPermIsTheInverse := fun B P =>
  ⟨bit_applyInvPerm B P, fun h => ⟨applyInvPerm_applyPerm B h, applyPerm_applyInvPerm B h⟩⟩

/-- Settles O12: a format CR command that needs no key, and a table that is a bijection. -/
theorem permMovesTheBitsOfData : Obligations.PermMovesTheBitsOfData :=
  ⟨submitsCR_of_formatCR (opc := 0x4) (fun _ => rfl) (fun _ => rfl), fun r s =>
    ⟨_, exec_perm r s, bit_applyPerm s.data (PermTable.bijective_permTable _ r _)⟩⟩

/-- Settles O13: a format CR command that needs no key, and the gathering of every bit. -/
theorem invPermMovesTheBitsBack : Obligations.InvPermMovesTheBitsBack :=
  ⟨submitsCR_of_formatCR (opc := 0x5) (fun _ => rfl) (fun _ => rfl), fun r s =>
    ⟨_, exec_invPerm r s, bit_applyInvPerm s.data _⟩⟩

end Sys2Proof.Machine
end

section
/-! SUPPORT. Multiplication and division modulo 65537 on segments (42_mixing.md R110 to R112). -/

namespace Sys2Proof.Machine

theorem Q_prime : Nat.Prime Q := by norm_num [Q]

theorem coprime_Q {x : Nat} (hx : 0 < x) (hxQ : x < Q) : Nat.Coprime x Q :=
  (Nat.coprime_of_lt_prime hx.ne' hxQ Q_prime).symm

/-- `Q` is prime, so no product of two residues in `1..65536` vanishes. -/
theorem mul_mod_Q_pos {x y : Nat} (hx : 0 < x) (hxQ : x < Q) (hy : 0 < y) (hyQ : y < Q) : 0 < x * y % Q :=
  Nat.pos_of_ne_zero fun h => (Q_prime.dvd_mul.1 (Nat.dvd_of_mod_eq_zero h)).elim
    (Nat.not_dvd_of_pos_of_lt hx hxQ) (Nat.not_dvd_of_pos_of_lt hy hyQ)

theorem invQ_eq_pow (x : Nat) : invQ x = x ^ 65535 % Q := by
  rw [invQ, powChain_eq_pow, show 2 ^ (15 + 1) - 1 = 65535 from rfl]

theorem invQ_lt (x : Nat) : invQ x < Q := by
  rw [invQ_eq_pow]
  exact Nat.mod_lt _ Q_prime.pos

/-- Fermat: `x * x^(Q-2) = x^(Q-1)` is 1 modulo `Q` (R111). -/
theorem mul_invQ_mod {x : Nat} (hx : 0 < x) (hxQ : x < Q) : x * invQ x % Q = 1 := by
  have htotient : Nat.totient Q = 65535 + 1 := Nat.totient_prime Q_prime
  rw [invQ_eq_pow, Nat.mul_mod_mod, ← pow_succ', ← htotient]
  exact Nat.ModEq.pow_totient (coprime_Q hx hxQ)

theorem invQ_pos {x : Nat} (hx : 0 < x) (hxQ : x < Q) : 0 < invQ x := by
  refine Nat.pos_of_ne_zero fun h => ?_
  have hone := mul_invQ_mod hx hxQ
  simp [h] at hone

/-- The inverse is unique in range, since `x` can be cancelled modulo `Q` (R111). -/
theorem eq_invQ {x y : Nat} (hx : 0 < x) (hxQ : x < Q) (hyQ : y < Q) (h : x * y % Q = 1) : y = invQ x :=
  have hmod : x * y ≡ x * invQ x [MOD Q] := h.trans (mul_invQ_mod hx hxQ).symm
  (hmod.cancel_left_of_coprime (coprime_Q hx hxQ).symm).eq_of_lt_of_lt hyQ (invQ_lt x)

/-- Settles O15: Fermat's power is an inverse, and the values R111 lists are inverses in range. -/
theorem invQIsTheUniqueInverse : Obligations.InvQIsTheUniqueInverse := by
  refine ⟨fun x hx hle => ?_, ?_, ?_, ?_, ?_⟩
  · have hxQ : x < Q := Nat.lt_succ_of_le hle
    exact ⟨invQ_pos hx hxQ, Nat.le_of_lt_succ (invQ_lt x), mul_invQ_mod hx hxQ,
      fun y _ hy h => eq_invQ hx hxQ (Nat.lt_succ_of_le hy) h, invQ_eq_pow x⟩
  all_goals exact (eq_invQ (by decide) (by decide) (by decide) (by decide)).symm

/-- A residue in `1..65536` is stored as the segment of the number before it. -/
theorem toNat_ofNat_pred {n : Nat} (hn : 0 < n) (hnQ : n < Q) : (BitVec.ofNat 16 (n - 1)).toNat + 1 = n := by
  have hQ : n < 65537 := hnQ
  rw [BitVec.toNat_ofNat]
  omega

theorem seg_succ_lt_Q (a : Seg) : a.toNat + 1 < Q := Nat.succ_lt_succ a.isLt

theorem seg_mul_invQ_mod (f : Seg) : (f.toNat + 1) * invQ (f.toNat + 1) % Q = 1 :=
  mul_invQ_mod (Nat.succ_pos _) (seg_succ_lt_Q f)

theorem seg_eq_of_succ_eq {a b : Seg} (h : a.toNat + 1 = b.toNat + 1) : a = b :=
  BitVec.eq_of_toNat_eq (Nat.succ.inj h)

/-- `mulQ` in exact integers (R110). -/
theorem mulQ_toNat_succ (a f : Seg) : (mulQ a f).toNat + 1 = (a.toNat + 1) * (f.toNat + 1) % Q := by
  rw [mulQ]
  exact toNat_ofNat_pred (mul_mod_Q_pos (Nat.succ_pos _) (seg_succ_lt_Q a) (Nat.succ_pos _) (seg_succ_lt_Q f))
    (Nat.mod_lt _ Q_prime.pos)

/-- `divQ` in exact integers (R112). -/
theorem divQ_toNat_succ (y f : Seg) : (divQ y f).toNat + 1 = (y.toNat + 1) * invQ (f.toNat + 1) % Q := by
  rw [divQ]
  exact toNat_ofNat_pred (mul_mod_Q_pos (Nat.succ_pos _) (seg_succ_lt_Q y)
    (invQ_pos (Nat.succ_pos _) (seg_succ_lt_Q f)) (invQ_lt _)) (Nat.mod_lt _ Q_prime.pos)

/-- A residue multiplied by two factors that are inverse to each other is itself. -/
theorem mul_mul_mod_Q_cancel {n u v : Nat} (hn : n < Q) (h : u * v % Q = 1) : n * u % Q * v % Q = n := by
  rw [Nat.mod_mul_mod, Nat.mul_assoc, Nat.mul_mod, h, Nat.mul_one, Nat.mod_mod, Nat.mod_eq_of_lt hn]

theorem divQ_mulQ (a f : Seg) : divQ (mulQ a f) f = a := by
  apply seg_eq_of_succ_eq
  rw [divQ_toNat_succ, mulQ_toNat_succ]
  exact mul_mul_mod_Q_cancel (seg_succ_lt_Q a) (seg_mul_invQ_mod f)

theorem mulQ_divQ (y f : Seg) : mulQ (divQ y f) f = y := by
  apply seg_eq_of_succ_eq
  rw [mulQ_toNat_succ, divQ_toNat_succ]
  exact mul_mul_mod_Q_cancel (seg_succ_lt_Q y) (Nat.mul_comm _ _ ▸ seg_mul_invQ_mod f)

/-- Dividing by a factor solves the equation of multiplying by it. -/
theorem eq_mulQ_iff_eq_divQ {a f y : Seg} : y = mulQ a f ↔ a = divQ y f :=
  ⟨fun h => by rw [h, divQ_mulQ], fun h => by rw [h, mulQ_divQ]⟩

/-- Settles O14: the one preimage is the quotient. -/
theorem mulQIsABijection : Obligations.MulQIsABijection := fun f =>
  ⟨fun a => mulQ_toNat_succ a f, fun y => ⟨divQ y f, mulQ_divQ y f, fun _ h => eq_mulQ_iff_eq_divQ.1 h.symm⟩⟩

/-- Settles O16. -/
theorem divQInvertsMulQ : Obligations.DivQInvertsMulQ := fun a f y =>
  ⟨divQ_toNat_succ y f, divQ_mulQ a f, mulQ_divQ y f⟩

end Sys2Proof.Machine
end

section
/-! SUPPORT. The mixing layer, MIX and INV_MIX (42_mixing.md R113 to R117). -/

namespace Sys2Proof.Machine

/-- One segment of the mixing in exact integers is `mulQ` by the sum with the key segment (R110, R113). -/
theorem succ_eq_iff_eq_mulQ (y a x k : Seg) :
    y.toNat + 1 = (a.toNat + 1) * ((x.toNat + k.toNat) % 65536 + 1) % 65537 ↔ y = mulQ a (x + k) := by
  have hexact : (mulQ a (x + k)).toNat + 1 = (a.toNat + 1) * ((x.toNat + k.toNat) % 65536 + 1) % 65537 := by
    rw [mulQ_toNat_succ, BitVec.toNat_add]; rfl
  rw [← hexact]
  exact ⟨seg_eq_of_succ_eq, fun h => h ▸ rfl⟩

/-- The exact-integer mixing, segment by segment in terms of `mulQ`. -/
theorem mixedFrom_iff_mulQ {D B K : Block} :
    mixedFrom D B K ↔
      (D[0] = mulQ B[0] (B[1] + K[0]) ∧ D[1] = mulQ B[1] (B[2] + K[1]) ∧ D[2] = mulQ B[2] (B[3] + K[2]) ∧
        D[3] = mulQ B[3] (B[4] + K[3]) ∧ D[4] = mulQ B[4] (B[5] + K[4]) ∧ D[5] = mulQ B[5] (B[6] + K[5]) ∧
        D[6] = mulQ B[6] (B[7] + K[6])) ∧
      D[7] = mulQ B[7] (D[0] + K[7]) := by
  simp only [mixedFrom, succ_eq_iff_eq_mulQ, Fin.forall_fin_succ, IsEmpty.forall_iff, and_true]
  rfl

theorem mix_eq_iff_mixedFrom {D B K : Block} : mix B K = D ↔ mixedFrom D B K := by
  rw [mixedFrom_iff_mulQ, mix_segments]
  constructor
  · rintro rfl
    exact ⟨⟨rfl, rfl, rfl, rfl, rfl, rfl, rfl⟩, rfl⟩
  · rintro ⟨⟨h0, h1, h2, h3, h4, h5, h6⟩, h7⟩
    rw [← h0, ← h1, ← h2, ← h3, ← h4, ← h5, ← h6, ← h7, ← Block.eta]

theorem invMix_eq_iff_mixedFrom {D B K : Block} : invMix D K = B ↔ mixedFrom D B K := by
  rw [mixedFrom_iff_mulQ]
  simp only [eq_mulQ_iff_eq_divQ]
  obtain ⟨E, hE, e7, e6, e5, e4, e3, e2, e1, e0⟩ := invMix_segments D K
  rw [hE]
  constructor
  · rintro rfl
    exact ⟨⟨e0, e1, e2, e3, e4, e5, e6⟩, e7⟩
  · rintro ⟨⟨h0, h1, h2, h3, h4, h5, h6⟩, h7⟩
    rw [Block.eta E, Block.eta B, e0, e1, e2, e3, e4, e5, e6, e7, h0, h1, h2, h3, h4, h5, h6, h7]

/-- Settles O17: mixing and unmixing solve the same eight equations. -/
theorem mixingIsInvertible : Obligations.MixingIsInvertible := fun _ _ =>
  ⟨invMix_eq_iff_mixedFrom.2 (mix_eq_iff_mixedFrom.1 rfl), mix_eq_iff_mixedFrom.2 (invMix_eq_iff_mixedFrom.1 rfl)⟩

/-- Settles O18: a keyed format CR command, and the equations of the mixing. -/
theorem mixMultipliesTheSegments : Obligations.MixMultipliesTheSegments :=
  ⟨submitsCR_of_formatCR (opc := 0x6) (fun _ => rfl) (fun _ => rfl), fun r s =>
    ⟨_, exec_mix r s, mix_eq_iff_mixedFrom.1 rfl⟩⟩

/-- Settles O19: a keyed format CR command, and the same equations solved from segment 7 down. -/
theorem invMixGivesTheUniquePreimage : Obligations.InvMixGivesTheUniquePreimage :=
  ⟨submitsCR_of_formatCR (opc := 0x7) (fun _ => rfl) (fun _ => rfl), fun r s =>
    ⟨_, exec_invMix r s, invMix_eq_iff_mixedFrom.1 rfl, fun _ h => (invMix_eq_iff_mixedFrom.2 h).symm⟩⟩

end Sys2Proof.Machine
end

section
/-! SUPPORT. Rotation, the diffusion layer, DIFF and INV_DIFF (43_diffusion.md R130 to R134). -/

namespace Sys2Proof.Machine

theorem rotl16_of_zero_or_sixteen (x : Seg) {n : Nat} (h : n = 0 ∨ n = 16) : rotl16 x n = x := if_pos h

/-- A rotation moves bit `k` to bit `(k + n) mod 16`: a bit that stays below 16 comes from the left shift, one that wraps around
from the right shift (R130). -/
theorem rotl16_getLsbD (x : Seg) {n k : Nat} (hn : n ≤ 16) (hk : k < 16) :
    (rotl16 x n).getLsbD ((k + n) % 16) = x.getLsbD k := by
  by_cases h : n = 0 ∨ n = 16
  · rw [rotl16_of_zero_or_sixteen x h, show (k + n) % 16 = k by omega]
  · rw [rotl16, if_neg h, BitVec.getLsbD_or, BitVec.getLsbD_shiftLeft, BitVec.getLsbD_ushiftRight]
    by_cases hwrap : k + n < 16
    · have hout : x.getLsbD (16 - n + (k + n)) = false := BitVec.getLsbD_of_ge _ _ (by omega)
      rw [Nat.mod_eq_of_lt hwrap, hout, Nat.add_sub_cancel]
      simp [hwrap]
    · have hmod : (k + n) % 16 = k + n - 16 := by omega
      rw [hmod, show 16 - n + (k + n - 16) = k by omega]
      simp [show k + n - 16 < n by omega]

/-- Settles O20: the two identities, and the two shifts bit by bit. -/
theorem rotationMovesEachBit : Obligations.RotationMovesEachBit := fun x _ hn =>
  ⟨fun _ hk => rotl16_getLsbD x hn hk, rotl16_of_zero_or_sixteen x⟩

/-- Every bit position is some `(k + n) mod 16`, so segments that agree on those are the same. -/
theorem seg_ext_rotated {x y : Seg} (n : Nat)
    (h : ∀ k < 16, x.getLsbD ((k + n) % 16) = y.getLsbD ((k + n) % 16)) : x = y := by
  refine BitVec.eq_of_getLsbD_eq fun j hj => ?_
  obtain ⟨k, hk, rfl⟩ : ∃ k < 16, (k + n) % 16 = j := ⟨(j + 16 - n % 16) % 16, by omega, by omega⟩
  exact h k hk

/-- Rotations whose amounts make 16 undo each other (R132). -/
theorem rotl16_rotl16 (x : Seg) {m n : Nat} (h : m + n = 16) : rotl16 (rotl16 x m) n = x := by
  refine seg_ext_rotated n fun k hk => ?_
  have hback : ((k + n) % 16 + m) % 16 = k := by omega
  calc (rotl16 (rotl16 x m) n).getLsbD ((k + n) % 16)
      = (rotl16 x m).getLsbD k := rotl16_getLsbD _ (by omega) hk
    _ = (rotl16 x m).getLsbD (((k + n) % 16 + m) % 16) := by rw [hback]
    _ = x.getLsbD ((k + n) % 16) := rotl16_getLsbD x (by omega) (Nat.mod_lt _ (by decide))

theorem rotAmount_lt (k : Seg) : rotAmount k < 16 := Nat.mod_lt _ (by decide)

theorem invDiffLane_diffLane (x k : Seg) : invDiffLane (diffLane x k) k = x := by
  have := rotAmount_lt k
  rw [invDiffLane, diffLane, BitVec.xor_assoc, BitVec.xor_self, BitVec.xor_zero, rotl16_rotl16 x (by omega)]

theorem diffLane_invDiffLane (y k : Seg) : diffLane (invDiffLane y k) k = y := by
  have := rotAmount_lt k
  rw [invDiffLane, diffLane, rotl16_rotl16 _ (by omega), BitVec.xor_assoc, BitVec.xor_self, BitVec.xor_zero]

theorem diff_get (B K : Block) (i : Fin 8) : (diff B K)[i] = diffLane B[i] K[i] := by
  rw [diff, Block.ofFn_get]

theorem invDiff_get (B K : Block) (i : Fin 8) : (invDiff B K)[i] = invDiffLane B[i] K[i] := by
  rw [invDiff, Block.ofFn_get]

theorem invDiff_diff (B K : Block) : invDiff (diff B K) K = B :=
  Block.ext_seg fun i => by rw [invDiff_get, diff_get, invDiffLane_diffLane]

theorem diff_invDiff (B K : Block) : diff (invDiff B K) K = B :=
  Block.ext_seg fun i => by rw [diff_get, invDiff_get, diffLane_invDiffLane]

/-- Settles O21: in each lane the two XORs cancel and the two rotations make 16. -/
theorem diffusionIsInvertible : Obligations.DiffusionIsInvertible := fun B K =>
  ⟨invDiff_get B K, invDiff_diff B K, diff_invDiff B K⟩

/-- `diff` solves the bitwise equation of the diffusion (R131). -/
theorem diffusedFrom_diff (B K : Block) : diffusedFrom (diff B K) B K := fun i k => by
  have hrot := rotl16_getLsbD B[i] (rotAmount_lt K[i]).le k.isLt
  rw [rotAmount] at hrot
  rw [diff_get, diffLane, BitVec.getLsbD_xor, rotAmount, hrot]

/-- The block that the diffusion maps to `B` is `invDiff` of it (R132). -/
theorem diffusedFrom_invDiff (B K : Block) : diffusedFrom B (invDiff B K) K := by
  have h := diffusedFrom_diff (invDiff B K) K
  rwa [diff_invDiff] at h

/-- Settles O22: a keyed format CR command, and the bits of each rotated lane. -/
theorem diffRotatesAndXorsEachLane : Obligations.DiffRotatesAndXorsEachLane :=
  ⟨submitsCR_of_formatCR (opc := 0x8) (fun _ => rfl) (fun _ => rfl), fun r s =>
    ⟨_, exec_diff r s, diffusedFrom_diff s.data s.rk[r]⟩⟩

/-- Settles O23: a keyed format CR command, and the diffusion that undoes `invDiff`. -/
theorem invDiffUndoesEachLane : Obligations.InvDiffUndoesEachLane :=
  ⟨submitsCR_of_formatCR (opc := 0x9) (fun _ => rfl) (fun _ => rfl), fun r s =>
    ⟨_, exec_invDiff r s, diffusedFrom_invDiff s.data s.rk[r]⟩⟩

end Sys2Proof.Machine
end

section
/-! SUPPORT. One round and its inverse, the ten rounds, and the commands that run them (44_round_pipeline.md R140 to R149). -/

namespace Sys2Proof.Machine

section
variable (c : Word) (RK : RoundKeys) (idx : Word) (B : Block) (r : Fin 10)

/-- Each layer of the round is undone by its inverse, the last one first (R141). -/
theorem roundInv_roundFwd : roundInv c RK idx (roundFwd c RK idx B r) r = B := by
  rw [roundInv, roundFwd, invDiff_diff, (mixingIsInvertible _ _).1,
    applyInvPerm_applyPerm B (PermTable.bijective_permTable c r idx)]

theorem roundFwd_roundInv : roundFwd c RK idx (roundInv c RK idx B r) r = B := by
  rw [roundInv, roundFwd, applyPerm_applyInvPerm _ (PermTable.bijective_permTable c r idx),
    (mixingIsInvertible _ _).2, diff_invDiff]

end

/-- Settles O24: layer by layer, from the inverses of the permutation, the mixing and the diffusion. -/
theorem backwardRoundUndoesForwardRound : Obligations.BackwardRoundUndoesForwardRound := fun c RK idx r B =>
  ⟨rfl, roundInv_roundFwd c RK idx B r, roundFwd_roundInv c RK idx B r⟩

/-- Steps that are undone one by one are undone as a whole by the inverse steps in reverse order. -/
theorem foldl_reverse_foldl {α β : Type} {f g : β → α → β} (h : ∀ b a, g (f b a) a = b) (l : List α) (b : β) :
    l.reverse.foldl g (l.foldl f b) = b := by
  rw [List.foldl_reverse]
  induction l generalizing b with
  | nil => rfl
  | cons a l ih => rw [List.foldr_cons, List.foldl_cons, ih, h]

theorem decryptBlock_encryptBlock (c : Word) (RK : RoundKeys) (idx : Word) (B : Block) :
    decryptBlock c RK idx (encryptBlock c RK idx B) = B :=
  foldl_reverse_foldl (roundInv_roundFwd c RK idx) roundOrder B

/-- The forward order is the reverse of the backward one. -/
theorem encryptBlock_decryptBlock (c : Word) (RK : RoundKeys) (idx : Word) (B : Block) :
    encryptBlock c RK idx (decryptBlock c RK idx B) = B :=
  foldl_reverse_foldl (roundFwd_roundInv c RK idx) roundOrder.reverse B

/-- Settles O25: the ten rounds are undone one by one, the last one first. -/
theorem decryptionUndoesEncryption : Obligations.DecryptionUndoesEncryption := fun c RK idx B =>
  ⟨decryptBlock_encryptBlock c RK idx B, encryptBlock_decryptBlock c RK idx B⟩

section
/-! Proved by `(rfl)`, so that `simp` cites these lemmas and does not leave the kernel a definitional equality of whole rounds,
which it would decide by unfolding the permutations. -/

variable (s : State) (D D' : Block)

@[simp] theorem retireWithData_cfg : (retireWithData s D).cfg = s.cfg := (rfl)
@[simp] theorem retireWithData_data : (retireWithData s D).data = D := (rfl)
@[simp] theorem retireWithData_blockIndex : (retireWithData s D).blockIndex = s.blockIndex := (rfl)
@[simp] theorem retireWithData_rk : (retireWithData s D).rk = s.rk := (rfl)

/-- Of completions that change DATA alone, the last one stands. -/
@[simp] theorem retireWithData_retireWithData : retireWithData (retireWithData s D) D' = retireWithData s D' := (rfl)

end

theorem runCommands_nil (s : State) : runCommands [] s = .next s := rfl

theorem runCommands_cons {i : Instr} {s t : State} (h : exec i s = .next t) (is : List Instr) :
    runCommands (i :: is) s = runCommands is t := by
  rw [runCommands, h, andThen]

/-- Settles O26: a keyed format CR command, and the completions of PERM, MIX and DIFF in order. -/
theorem roundFwdIsPermMixDiff : Obligations.RoundFwdIsPermMixDiff := by
  refine ⟨submitsCR_of_formatCR (opc := 0xA) (fun _ => rfl) (fun _ => rfl), fun r s => ⟨_, exec_roundFwd r s, rfl, ?_⟩⟩
  rw [runCommands_cons (exec_perm r s), runCommands_cons (exec_mix r _), runCommands_cons (exec_diff r _), runCommands_nil]
  simp [roundFwd]

/-- Settles O27: a keyed format CR command, the completions of INV_DIFF, INV_MIX and INV_PERM in order, and the round that undoes
the forward one (R141). -/
theorem roundInvUndoesRoundFwd : Obligations.RoundInvUndoesRoundFwd := by
  refine ⟨submitsCR_of_formatCR (opc := 0xB) (fun _ => rfl) (fun _ => rfl), fun r s =>
    ⟨_, exec_roundInv r s, rfl, ?layers, ?undo⟩⟩
  case layers =>
    rw [runCommands_cons (exec_invDiff r s), runCommands_cons (exec_invMix r _), runCommands_cons (exec_invPerm r _),
      runCommands_nil]
    simp [roundInv]
  case undo =>
    rw [runCommands_cons (exec_roundFwd r s), runCommands_cons (exec_roundInv r _), runCommands_nil]
    simp [roundInv_roundFwd]

/-- A non-empty list of commands that each change DATA alone, by the round function `f`, folds `f` over their rounds. -/
theorem runCommands_rounds {command : Fin 10 → Instr} {f : Word → RoundKeys → Word → Block → Fin 10 → Block}
    (hexec : ∀ r s, exec (command r) s = .next (retireWithData s (f s.cfg.permConst s.rk s.blockIndex s.data r)))
    {rs : List (Fin 10)} (hne : rs ≠ []) (s : State) :
    runCommands (rs.map command) s =
      .next (retireWithData s (rs.foldl (f s.cfg.permConst s.rk s.blockIndex) s.data)) := by
  induction rs generalizing s with
  | nil => exact absurd rfl hne
  | cons r rs ih =>
    rw [List.map_cons, runCommands_cons (hexec r s), List.foldl_cons]
    cases rs with
    | nil => rfl
    | cons r' rs => rw [ih (List.cons_ne_nil r' rs)]; simp

/-- Settles O28: a keyed format C0 command, and the forward rounds folded over rounds 0 to 9. -/
theorem encryptIsTheTenForwardRounds : Obligations.EncryptIsTheTenForwardRounds :=
  ⟨submitsC0_of_rnd_none (i := .encrypt) rfl, fun s =>
    ⟨_, exec_encrypt s, rfl, runCommands_rounds exec_roundFwd (rs := roundOrder) (List.cons_ne_nil _ _) s⟩⟩

/-- Settles O29: a keyed format C0 command, the backward rounds folded over rounds 9 to 0, and the decryption that undoes the
encryption (R144). -/
theorem decryptIsTheTenBackwardRounds : Obligations.DecryptIsTheTenBackwardRounds := by
  refine ⟨submitsC0_of_rnd_none (i := .decrypt) rfl, fun s =>
    ⟨_, exec_decrypt s, rfl, runCommands_rounds exec_roundInv (rs := roundOrder.reverse) (List.cons_ne_nil _ _) s, ?undo⟩⟩
  case undo =>
    rw [runCommands_cons (exec_encrypt s), runCommands_cons (exec_decrypt _), runCommands_nil]
    simp [decryptBlock_encryptBlock]

end Sys2Proof.Machine
end

section
/-! SUPPORT. The acceptance of a command word, and the turn that runs the accepted command (45_control.md R160 to R163). -/

namespace Sys2Proof.Machine

variable {s : State} {i : Instr} {e : Event} {es : List Event}

theorem rnd?_of_decode {w : Word} (h : decode w = .command i) : ∀ r, i.rnd? = some r → r = fieldRnd w :=
  (row_selects_iff.2 (decode_eq_command_iff.1 h)).2

/-- The keyed commands are ENCRYPT, DECRYPT and every format CR command but PERM and INV_PERM (R62, R160). -/
theorem mem_keyed_iff_needsKey {rnd : BitVec 4} (hrnd : ∀ r, i.rnd? = some r → r = rnd) :
    i ∈ [.encrypt, .decrypt] ++ (crCommands rnd).drop 2 ↔ needsKey i = true := by
  constructor
  · intro hmem
    simp only [crCommands, List.drop_succ_cons, List.drop_zero, List.mem_append, List.mem_cons, List.not_mem_nil,
      or_false] at hmem
    rcases hmem with (rfl | rfl) | rfl | rfl | rfl | rfl | rfl | rfl <;> rfl
  · intro hkey
    cases i with
    | nop | expandKey | perm | invPerm | zeroize => cases hkey
    | encrypt | decrypt => simp
    | mix r | invMix r | diff r | invDiff r | roundFwd r | roundInv r => simp [crCommands, hrnd r rfl]

/-- Settles O30: one law of `submit` per check, and the list of keyed commands is `needsKey`. -/
theorem submitChecksInOrder : Obligations.SubmitChecksInOrder := by
  intro w s
  refine ⟨submit_of_busy, submit_of_illegal, submit_of_badRound, fun i hidle hd hmem hv => ?_, fun i hidle hd hok => ?_⟩
  · exact submit_of_noKey hidle hd ((mem_keyed_iff_needsKey (rnd?_of_decode hd)).1 hmem) hv
  · rw [mem_keyed_iff_needsKey (rnd?_of_decode hd)] at hok
    exact submit_of_command hidle hd fun hkey => hok.resolve_left (not_not_intro hkey)

/-- Settles O31: an unkeyed format C0 command, whose completion clears KEY_VALID and leaves the engine idle. -/
theorem zeroizeClearsKeysAndData : Obligations.ZeroizeClearsKeysAndData :=
  ⟨submitsC0_of_rnd_none (i := .zeroize) rfl, fun s =>
    ⟨_, exec_zeroize s, rfl, fun _ _ hd hkey => submit_of_noKey rfl hd hkey rfl⟩⟩

/-- Settles O32: an unkeyed format C0 command, whose completion is `retire` alone. -/
theorem nopRunsTheLifecycleOnly : Obligations.NopRunsTheLifecycleOnly :=
  ⟨submitsC0_of_rnd_none (i := .nop) rfl, exec_nop⟩

theorem step_of_agenda_nil (ha : s.agenda = []) : step s = engineTurn s := by
  simp only [step, nextTurn, ha]

theorem step_of_agenda_cons (ha : s.agenda = e :: es) : step s = turn e { s with agenda := es } := by
  simp only [step, nextTurn, ha]

theorem engineTurn_of_pending (hr : s.resetLine = false) (hp : s.pending = some i) : engineTurn s = exec i s := by
  simp [engineTurn, hr, hp]

theorem engineTurn_of_idle (hr : s.resetLine = false) (hp : s.pending = none) : engineTurn s = .next s := by
  simp [engineTurn, hr, hp]

/-- Settles O33: the step is the engine's turn in both cases, in the second with its turn taken off the agenda. -/
theorem stepRunsThePendingCommand : Obligations.StepRunsThePendingCommand := fun _ _ _ hr hp =>
  ⟨fun ha => (step_of_agenda_nil ha).trans (engineTurn_of_pending hr hp),
   fun ha => (step_of_agenda_cons ha).trans (engineTurn_of_pending hr hp)⟩

/-- The write of a well-formed command's word to CMD, on an idle CORE whose key is valid if the command needs one (R160). -/
theorem hostAccess_cmdWrite (hwf : i.wf = true) (hr : s.resetLine = false) (hb : s.busy = false)
    (hkey : needsKey i = true → s.keyValid = true) :
    hostAccess (Config.writeOf s.cfg .cmd (encode i)) s = .next { accept i s with resp := .writeDone } := by
  rw [hostAccess_writeOf hr, writeReg, unlessBusy_of_idle hb, submit_of_command hb (decode_encode hwf) hkey]

/-- Settles O35: the step of the CMD write accepts the command, and the next one is the engine's turn of O33. -/
theorem acceptedCommandRunsAtTheEnginesTurn : Obligations.AcceptedCommandRunsAtTheEnginesTurn := by
  intro s i es hwf hr hb hkey ha
  have haccept : step s = .next { accept i { s with agenda := .engine :: es } with resp := .writeDone } :=
    (step_of_agenda_cons ha).trans (hostAccess_cmdWrite (s := { s with agenda := .engine :: es }) hwf hr hb hkey)
  exact ⟨_, haccept, rfl, (stepRunsThePendingCommand _ i es (by exact hr) rfl).2 rfl⟩

end Sys2Proof.Machine
end

section
/-! SUPPORT. What a host access does to the lifecycle of a command, and that it changes nothing a pending command reads
(45_control.md R161, 20_memory.md R46). -/

namespace Sys2Proof.Machine

/-- BUSY, PENDING, the reset line, the parameters and the turns still to come have in `t` the values they have in `s`. -/
structure KeepsLifecycle (s t : State) : Prop where
  busy : t.busy = s.busy
  pending : t.pending = s.pending
  resetLine : t.resetLine = s.resetLine
  cfg : t.cfg = s.cfg
  agenda : t.agenda = s.agenda

variable {s t u : State} {a : Access}

theorem KeepsLifecycle.refl (s : State) : KeepsLifecycle s s := ⟨rfl, rfl, rfl, rfl, rfl⟩

theorem KeepsLifecycle.trans (h : KeepsLifecycle s t) (h' : KeepsLifecycle t u) : KeepsLifecycle s u :=
  ⟨h'.busy.trans h.busy, h'.pending.trans h.pending, h'.resetLine.trans h.resetLine, h'.cfg.trans h.cfg,
   h'.agenda.trans h.agenda⟩

theorem KeepsRegisters.refl (s : State) : KeepsRegisters s s := ⟨rfl, rfl, rfl, rfl, rfl⟩

theorem KeepsRegisters.trans (h : KeepsRegisters s t) (h' : KeepsRegisters t u) : KeepsRegisters s u :=
  ⟨h'.data.trans h.data, h'.key.trans h.key, h'.blockIndex.trans h.blockIndex, h'.rk.trans h.rk,
   h'.keyValid.trans h.keyValid⟩

theorem raiseError_keepsLifecycle (c : ErrCode) (s : State) : KeepsLifecycle s (raiseError c s) :=
  ⟨raiseError_busy c s, raiseError_pending c s, raiseError_resetLine c s, raiseError_cfg c s, raiseError_agenda c s⟩

theorem writeStatus_keepsLifecycle (v : Word) (s : State) : KeepsLifecycle s (writeStatus v s) :=
  ⟨writeStatus_busy v s, writeStatus_pending v s, writeStatus_resetLine v s, writeStatus_cfg v s, writeStatus_agenda v s⟩

/-- A host write leaves the lifecycle alone, or accepts a well-formed command on an idle CORE (R160). -/
theorem writeReg_lifecycle (g : Reg) (v : Word) (s : State) :
    KeepsLifecycle s (writeReg g v s) ∨ ∃ i : Instr, s.busy = false ∧ i.wf = true ∧ writeReg g v s = accept i s := by
  have dropped := raiseError_keepsLifecycle .busy s
  cases g with
  | id | reserved => exact .inl (.refl s)
  | status => exact .inl (writeStatus_keepsLifecycle v s)
  | irqEn => exact .inl ⟨rfl, rfl, rfl, rfl, rfl⟩
  | blockIndex =>
    exact .inl (unlessBusy_ind (f := fun t => { t with blockIndex := v }) dropped fun _ => ⟨rfl, rfl, rfl, rfl, rfl⟩)
  | key | data => exact .inl (unlessBusy_ind dropped fun _ => ⟨rfl, rfl, rfl, rfl, rfl⟩)
  | cmd =>
    cases hb : s.busy with
    | true => rw [writeReg_dropped hb rfl]; exact .inl dropped
    | false =>
      rw [writeReg, unlessBusy_of_idle hb]
      rcases submit_cases v s with ⟨c, -, hsubmit, -⟩ | ⟨i, -, hsubmit, -, hd, -⟩ <;> rw [hsubmit]
      · exact .inl (raiseError_keepsLifecycle c s)
      · exact .inr ⟨i, rfl, (decode_eq_command_iff.1 hd).1, rfl⟩

/-- The same of any access outside reset, by the state after it. -/
theorem hostAccess_lifecycle (hr : s.resetLine = false) (h : hostAccess a s = .next t) :
    KeepsLifecycle s t ∨ ∃ i : Instr, s.busy = false ∧ i.wf = true ∧ KeepsLifecycle (accept i s) t := by
  rcases (hostAccess_cases h).2 with ⟨hr', -⟩ | ⟨-, r, rfl⟩ | ⟨-, g, v, -, rfl⟩
  · simp [hr] at hr'
  · exact .inl ⟨rfl, rfl, rfl, rfl, rfl⟩
  · have answered (x : State) : KeepsLifecycle x { x with resp := .writeDone } := ⟨rfl, rfl, rfl, rfl, rfl⟩
    rcases writeReg_lifecycle g v s with hkeeps | ⟨i, hb, hwf, haccept⟩
    · exact .inl (hkeeps.trans (answered _))
    · exact .inr ⟨i, hb, hwf, haccept ▸ answered _⟩

/-- While BUSY is 1 no access reaches the registers: their writers among the accesses all need an idle CORE (R26, R46). -/
theorem RegisterTurn.keeps_of_busy (h : RegisterTurn s (.access a) t) (hb : s.busy = true) : KeepsRegisters s t := by
  cases h with
  | keeps kept => exact kept
  | dataWrite idle | keyWrite idle | blockIndexWrite idle => simp [hb] at idle

theorem hostAccess_of_busy (hb : s.busy = true) (hr : s.resetLine = false) (h : hostAccess a s = .next t) :
    KeepsRegisters s t ∧ KeepsLifecycle s t := by
  refine ⟨(turn_registerTurn (e := .access a) h hr (by simp)).keeps_of_busy hb, ?_⟩
  rcases hostAccess_lifecycle hr h with hkeeps | ⟨i, idle, -⟩
  · exact hkeeps
  · simp [hb] at idle

theorem runTurns_cons_eq_next {e : Event} {es : List Event} (h : runTurns (e :: es) s = .next t) :
    ∃ u, turn e s = .next u ∧ runTurns es u = .next t := by
  rw [runTurns] at h
  cases hturn : turn e s with
  | next u => rw [hturn] at h; exact ⟨u, rfl, h⟩
  | fault | refused => rw [hturn] at h; cases h

/-- Any number of accesses while BUSY is 1: each finds BUSY still 1, and the reset line still not asserted. -/
theorem runTurns_accesses_of_busy {es : List Event} (hb : s.busy = true) (hr : s.resetLine = false)
    (hes : ∀ e ∈ es, ∃ a : Access, e = .access a) (h : runTurns es s = .next t) :
    KeepsRegisters s t ∧ KeepsLifecycle s t := by
  induction es generalizing s with
  | nil => cases h; exact ⟨.refl _, .refl _⟩
  | cons e es ih =>
    obtain ⟨⟨a, rfl⟩, htail⟩ := List.forall_mem_cons.1 hes
    obtain ⟨u, hturn, hrest⟩ := runTurns_cons_eq_next h
    obtain ⟨hregs, hlife⟩ := hostAccess_of_busy hb hr hturn
    obtain ⟨hregs', hlife'⟩ := ih (hlife.busy.trans hb) (hlife.resetLine.trans hr) htail hrest
    exact ⟨hregs.trans hregs', hlife.trans hlife'⟩

/-- Settles O58: the registers and the lifecycle are all that a completion reads. -/
theorem completionReadsTheAcceptedValues : Obligations.CompletionReadsTheAcceptedValues := by
  intro es s t hb hr hes h
  obtain ⟨⟨hdata, hkey, hidx, hrk, hvalid⟩, hlife⟩ := runTurns_accesses_of_busy hb hr hes h
  exact ⟨hlife.busy.trans hb, hlife.pending, hdata, hkey, hrk, hidx, hvalid, hlife.cfg⟩

end Sys2Proof.Machine
end

section
/-! SUPPORT. Every accepted command completes (45_control.md R161, 70_reset_and_hazards.md R206; log entry 1): the part of the
engine's invariant that a completion rests on, along a run outside reset. -/

namespace Sys2Proof.Machine

/-- Outside reset, BUSY is 1 exactly while a command is pending, and that command is well-formed: an ill-formed one would never
leave PENDING (log entry 6). -/
structure State.Completable (s : State) : Prop where
  resetLine : s.resetLine = false
  busy_iff : s.busy = true ↔ s.pending.isSome = true
  wf : ∀ i, s.pending = some i → i.wf = true

variable {s t : State} {i : Instr} {e : Event} {es : List Event}

theorem State.EngineInv.completable (h : s.EngineInv) (hr : s.resetLine = false) : s.Completable := by
  obtain ⟨hbusy, hlegal, -⟩ := h
  exact ⟨hr, hbusy, fun i hp => (hlegal i hp).1⟩

theorem KeepsLifecycle.completable (h : KeepsLifecycle s t) (hs : s.Completable) : t.Completable :=
  ⟨h.resetLine.trans hs.resetLine, by rw [h.busy, h.pending]; exact hs.busy_iff, by rw [h.pending]; exact hs.wf⟩

theorem accept_completable (hwf : i.wf = true) (hr : s.resetLine = false) : (accept i s).Completable :=
  ⟨hr, by simp, by rintro _ ⟨⟩; exact hwf⟩

theorem retire_completable (hr : s.resetLine = false) : (retire s).Completable := ⟨hr, by simp, by simp⟩

/-- The completion of a well-formed command ends its lifecycle, whatever else it does (R161). -/
theorem exec_lifecycle (hwf : i.wf = true) (h : exec i s = .next t) : KeepsLifecycle (retire s) t := by
  rcases exec_cases h with ⟨-, rfl⟩ | ⟨-, rfl⟩ | ⟨-, rfl⟩ | ⟨-, -, -, -, D, rfl⟩ | ⟨hill, -⟩
  · exact .refl _
  · exact ⟨rfl, rfl, rfl, rfl, rfl⟩
  · exact ⟨rfl, rfl, rfl, rfl, rfl⟩
  · exact ⟨rfl, rfl, rfl, rfl, rfl⟩
  · simp [hwf] at hill

/-- After the engine's turn no command is pending, whether or not one was (R161). -/
theorem engineTurn_lifecycle (hs : s.Completable) : ∃ t, engineTurn s = .next t ∧ KeepsLifecycle (retire s) t := by
  cases hp : s.pending with
  | none =>
    have hidle : s.busy = false := by simpa [hp] using hs.busy_iff
    exact ⟨s, engineTurn_of_idle hs.resetLine hp, hidle, hp, rfl, rfl, rfl⟩
  | some i =>
    obtain ⟨t, ht⟩ := exec_next i s
    exact ⟨t, (engineTurn_of_pending hs.resetLine hp).trans ht, exec_lifecycle (hs.wf i hp) ht⟩

/-- A turn of the engine, or of the host port in the window, is always taken, and keeps what the run rests on. -/
theorem turn_completable (hs : s.Completable) (he : e = .engine ∨ ∃ a : Access, e = .access a ∧ a.inWindow s.cfg) :
    ∃ t, turn e s = .next t ∧ t.Completable ∧ t.cfg = s.cfg ∧ t.agenda = s.agenda := by
  rcases he with rfl | ⟨a, rfl, hwindow⟩
  · obtain ⟨t, ht, hlife⟩ := engineTurn_lifecycle hs
    exact ⟨t, ht, hlife.completable (retire_completable hs.resetLine), hlife.cfg, hlife.agenda⟩
  · obtain ⟨t, ht⟩ := hostAccess_next hwindow
    rcases hostAccess_lifecycle hs.resetLine ht with hlife | ⟨i, -, hwf, hlife⟩
    · exact ⟨t, ht, hlife.completable hs, hlife.cfg, hlife.agenda⟩
    · exact ⟨t, ht, hlife.completable (accept_completable hwf hs.resetLine), hlife.cfg, hlife.agenda⟩

theorem run_succ {M : Host.Core} {x y : M.State} (h : M.step x = .next y) (k : Nat) : M.run (k + 1) x = M.run k y := by
  rw [Host.Core.run, h]

/-- The run takes each turn of the agenda in order, and then the engine's. -/
theorem run_completes (hs : s.Completable) (ha : s.agenda = es)
    (hes : ∀ e ∈ es, e = .engine ∨ ∃ a : Access, e = .access a ∧ a.inWindow s.cfg) :
    ∃ t : State, Sys2Proof.core.run (es.length + 1) s = .next t ∧ t.pending = none ∧ t.busy = false ∧ t.agenda = [] := by
  induction es generalizing s with
  | nil =>
    obtain ⟨t, ht, hlife⟩ := engineTurn_lifecycle hs
    have hrun := run_succ (M := Sys2Proof.core) ((step_of_agenda_nil ha).trans ht) 0
    exact ⟨t, hrun, hlife.pending, hlife.busy, hlife.agenda.trans ha⟩
  | cons e es ih =>
    obtain ⟨hhead, htail⟩ := List.forall_mem_cons.1 hes
    have hs' : State.Completable { s with agenda := es } := ⟨hs.resetLine, hs.busy_iff, hs.wf⟩
    obtain ⟨u, hturn, hu, hcfg, hagenda⟩ := turn_completable hs' hhead
    have hrun := run_succ (M := Sys2Proof.core) ((step_of_agenda_cons ha).trans hturn) (es.length + 1)
    obtain ⟨t, hrest, hdone⟩ := ih hu hagenda (hcfg ▸ htail)
    exact ⟨t, hrun.trans hrest, hdone⟩

/-- Settles O59: the engine's invariant starts the run, which uses up the agenda and ends with the engine's turn. -/
theorem everyAcceptedCommandCompletes : Obligations.EveryAcceptedCommandCompletes := fun _ hinv hr hes =>
  run_completes (hinv.completable hr) rfl hes

end Sys2Proof.Machine
end

section
/-! SUPPORT. The error record and the interrupt (60_exceptions.md R170, R172, R176). -/

namespace Sys2Proof.Machine

/-- ERR and ERR_CODE are the only fields an error writes, and ERR_CODE only while ERR is 0 (R172). -/
theorem raiseError_eq (c : ErrCode) (s : State) :
    raiseError c s = { s with err := true, errCode := if s.err then s.errCode else c.code } := by
  unfold raiseError
  split
  case isTrue h => rw [← h]
  case isFalse => rfl

theorem raiseError_of_err {s : State} (h : s.err = true) (c : ErrCode) : raiseError c s = s := if_pos h

theorem raiseError_of_not_err {s : State} (h : s.err = false) (c : ErrCode) :
    raiseError c s = { s with err := true, errCode := c.code } := by
  rw [raiseError_eq, h, if_neg Bool.false_ne_true]

/-- Settles O51: an error by whether one is recorded already, and the code of each cause. -/
theorem firstErrorIsKept : Obligations.FirstErrorIsKept := fun c _ =>
  ⟨(raiseError_of_err · c), (raiseError_of_not_err · c), by cases c <;> decide⟩

/-- IRQ_EN bit by bit (R30): DONE_IE, ERR_IE, and zeros. -/
theorem irqEnWord_getLsbD (s : State) (k : Nat) :
    (irqEnWord s).getLsbD k = if k = 0 then s.doneIe else if k = 1 then s.errIe else false := by
  simp only [irqEnWord, flagBit, BitVec.getLsbD_setWidth, BitVec.getLsbD_append, BitVec.getLsbD_ofBool]
  by_cases hk : k < 2
  · interval_cases k <;> simp
  · obtain ⟨j, rfl⟩ := Nat.exists_eq_add_of_le' (Nat.le_of_not_lt hk)
    simp

/-- Settles O52: the two words read, bit by bit. -/
theorem interruptLevel : Obligations.InterruptLevel := by
  intro s
  simp only [readReg, statusWord_getLsbD, irqEnWord_getLsbD]
  rfl

end Sys2Proof.Machine
end

section
/-! SUPPORT. What a completion leaves in STATUS and IRQ_EN (45_control.md R161, 60_exceptions.md R172). -/

namespace Sys2Proof.Machine

/-- DONE, ERR, ERR_CODE and the two interrupt enables have in `t` the values they have in `s`. -/
structure KeepsStatus (s t : State) : Prop where
  done : t.done = s.done
  err : t.err = s.err
  errCode : t.errCode = s.errCode
  doneIe : t.doneIe = s.doneIe
  errIe : t.errIe = s.errIe

/-- The completion of a well-formed command sets DONE, and keeps the error record and the interrupt enables (R161). -/
theorem exec_keepsStatus {s t : State} {i : Instr} (hwf : i.wf = true) (h : exec i s = .next t) :
    KeepsStatus (retire s) t := by
  rcases exec_cases h with ⟨-, rfl⟩ | ⟨-, rfl⟩ | ⟨-, rfl⟩ | ⟨-, -, -, -, D, rfl⟩ | ⟨hill, -⟩
  · exact ⟨rfl, rfl, rfl, rfl, rfl⟩
  · exact ⟨rfl, rfl, rfl, rfl, rfl⟩
  · exact ⟨rfl, rfl, rfl, rfl, rfl⟩
  · exact ⟨rfl, rfl, rfl, rfl, rfl⟩
  · simp [hwf] at hill

end Sys2Proof.Machine
end

section
/-! SUPPORT. The engine's invariant (60_exceptions.md R170, 45_control.md R160, 93_implementation_defined.md I5): what each
operation of a turn keeps of it. -/

namespace Sys2Proof.Machine

variable {s t : State} {i : Instr}

/-- The induction over a step, once for every invariant: it holds of the reset values, the agenda and the response do not matter
to it, and every host write and every completion of the pending command keep it. -/
theorem step_keeps {P : State → Prop}
    (hreset : ∀ c line es r, P { State.resetWith c with resetLine := line, agenda := es, resp := r })
    (hframe : ∀ s es r, P s → P { s with agenda := es, resp := r })
    (hwrite : ∀ s g v, P s → P (writeReg g v s))
    (hexec : ∀ {s t i}, P s → s.pending = some i → exec i s = .next t → P t)
    (h : P s) (hs : step s = .next t) : P t := by
  have held (s : State) : P (holdReset s) := hreset s.cfg true s.agenda .idle
  have engine {s : State} (h : P s) (he : engineTurn s = .next t) : P t := by
    rcases engineTurn_cases he with ⟨-, rfl⟩ | ⟨-, -, rfl⟩ | ⟨-, i, hp, hi⟩
    · exact held s
    · exact h
    · exact hexec h hp hi
  rcases step_cases hs with ⟨-, he⟩ | ⟨e, es, -, he⟩
  · exact engine h he
  have h' := hframe s es s.resp h
  cases e with
  | engine => exact engine h' he
  | resetAssert => cases he; exact held _
  | resetRelease =>
    cases he
    unfold releaseReset
    split
    · exact hreset s.cfg false es .idle
    · exact h'
  | access a =>
    rcases (hostAccess_cases he).2 with ⟨-, rfl⟩ | ⟨-, r, rfl⟩ | ⟨-, g, v, -, rfl⟩
    · unfold accessInReset
      split <;> exact hframe _ es _ (held _)
    · exact hframe s es r h
    · exact hframe _ _ .writeDone (hwrite _ g v h')

/-- An idle engine has no command pending, so PENDING's legality says nothing of its registers. -/
theorem engineInv_of_idle (hbusy : s.busy = false) (hpending : s.pending = none) (herr : s.ErrCodeLegal) : s.EngineInv :=
  ⟨by simp [hbusy, hpending], by simp [State.PendingLegal, hpending], herr⟩

theorem resetWith_engineInv (c : Config) : (State.resetWith c).EngineInv := engineInv_of_idle rfl rfl rfl

/-- Every code but the reserved one is 1 to 4 (R170). -/
theorem ErrCode.code_toNat_bounds {c : ErrCode} (hc : c ≠ .mixNotInvertible) : 1 ≤ c.code.toNat ∧ c.code.toNat ≤ 4 := by
  cases c with
  | mixNotInvertible => exact absurd rfl hc
  | illegalCmd | badRound | noKey | busy => decide

theorem raiseError_errCodeLegal {c : ErrCode} (hc : c ≠ .mixNotInvertible) (h : s.ErrCodeLegal) :
    (raiseError c s).ErrCodeLegal := by
  unfold State.ErrCodeLegal at h ⊢
  rw [raiseError_err, raiseError_errCode, if_pos rfl]
  cases he : s.err with
  | true => simpa [he] using h
  | false => exact ErrCode.code_toNat_bounds hc

theorem raiseError_engineInv {c : ErrCode} (hc : c ≠ .mixNotInvertible) (h : s.EngineInv) :
    (raiseError c s).EngineInv := by
  obtain ⟨hbusy, hlegal, herr⟩ := h
  exact ⟨by simpa using hbusy, by simpa [State.PendingLegal] using hlegal, raiseError_errCodeLegal hc herr⟩

/-- A STATUS write clears ERR and ERR_CODE together or keeps both (R29). -/
theorem writeStatus_engineInv (v : Word) (h : s.EngineInv) : (writeStatus v s).EngineInv := by
  obtain ⟨hbusy, hlegal, herr⟩ := h
  refine ⟨by simpa using hbusy, by simpa [State.PendingLegal] using hlegal, ?_⟩
  unfold State.ErrCodeLegal
  rw [writeStatus_err, writeStatus_errCode]
  cases v.getLsbD 3 with
  | true => simp
  | false => simpa [State.ErrCodeLegal] using herr

/-- What is accepted is what decoding gives, with a valid key if it needs one; and no check raises the reserved code (R160). -/
theorem submit_engineInv (w : Word) (h : s.EngineInv) : (submit w s).EngineInv := by
  rcases submit_cases w s with ⟨c, -, hsubmit, hc⟩ | ⟨i, -, hsubmit, -, hd, hkey⟩ <;> rw [hsubmit]
  · exact raiseError_engineInv hc h
  · obtain ⟨-, -, herr⟩ := h
    refine ⟨by simp, ?_, herr⟩
    rintro _ ⟨⟩
    exact ⟨(decode_eq_command_iff.1 hd).1, hkey⟩

theorem writeReg_engineInv (g : Reg) (v : Word) (h : s.EngineInv) : (writeReg g v s).EngineInv := by
  have dropped : (raiseError .busy s).EngineInv := raiseError_engineInv (by simp) h
  cases g with
  | id | reserved | irqEn => exact h
  | status => exact writeStatus_engineInv v h
  | cmd => exact unlessBusy_ind dropped fun _ => submit_engineInv v h
  | blockIndex => exact unlessBusy_ind (f := fun t => { t with blockIndex := v }) dropped fun _ => h
  | data w => exact unlessBusy_ind dropped fun _ => h
  | key w =>
    obtain ⟨hbusy, -, herr⟩ := h
    refine unlessBusy_ind dropped fun idle => engineInv_of_idle idle ?_ herr
    simpa [idle] using hbusy

/-- A completion leaves the engine idle and the error record as it was: PENDING holds no ill-formed command. -/
theorem exec_engineInv (h : s.EngineInv) (hp : s.pending = some i) (he : exec i s = .next t) : t.EngineInv := by
  obtain ⟨-, hlegal, herr⟩ := h
  have hwf := (hlegal i hp).1
  have hlife := exec_lifecycle hwf he
  have hstatus := exec_keepsStatus hwf he
  refine engineInv_of_idle hlife.busy hlife.pending ?_
  unfold State.ErrCodeLegal
  rw [hstatus.err, hstatus.errCode]
  exact herr

/-- Settles O40: the engine's invariant holds of the reset values, and host writes and completions keep it. -/
theorem everyStepKeepsTheEngineInvariant : Obligations.EveryStepKeepsTheEngineInvariant := fun _ _ =>
  step_keeps (fun c _ _ _ => resetWith_engineInv c) (fun _ _ _ h => h) (fun _ g v => writeReg_engineInv g v) exec_engineInv

end Sys2Proof.Machine
end

section
/-! SUPPORT. A host write and a completion of the same cycle, in either order (60_exceptions.md R178). -/

namespace Sys2Proof.Machine

variable {s t : State} {i : Instr}

theorem runTurns_singleton (e : Event) (s : State) : runTurns [e] s = turn e s := by
  simp only [runTurns]
  cases turn e s <;> rfl

/-- The completion first, then a write: the write finds the state that the completion left. -/
theorem runTurns_engine_write (g : Reg) (v : Word) (hr : s.resetLine = false) (hp : s.pending = some i)
    (hwf : i.wf = true) (he : exec i s = .next t) :
    runTurns [.engine, wrEvent s.cfg g v] s = .next { writeReg g v t with resp := .writeDone } := by
  have hlife := exec_lifecycle hwf he
  have hturn : turn .engine s = .next t := (engineTurn_of_pending hr hp).trans he
  have hcfg : t.cfg = s.cfg := hlife.cfg
  rw [runTurns, hturn, andThen, ← hcfg, runTurns_wrEvent (hlife.resetLine.trans hr), runTurns]

/-- A completion passes the error record and the response on as they are, and does not read DONE. -/
theorem exec_of_status_fields (hwf : i.wf = true) (he : exec i s = .next t) (d e : Bool) (c : BitVec 4) (r : BusResp) :
    exec i { s with done := d, err := e, errCode := c, resp := r } = .next { t with err := e, errCode := c, resp := r } := by
  have hstatus := exec_keepsStatus hwf he
  refine (exec_of_other_fields hwf he d e c s.doneIe s.errIe s.agenda r).trans ?_
  rw [hstatus.doneIe, hstatus.errIe, (exec_lifecycle hwf he).agenda]
  rfl

/-- The write first, then the completion: a write that reaches DONE and the error record at most leaves the completion as it
would have been. -/
theorem runTurns_write_engine {g : Reg} {v : Word} {d e : Bool} {c : BitVec 4} (hr : s.resetLine = false)
    (hp : s.pending = some i) (hwf : i.wf = true) (he : exec i s = .next t)
    (hwrite : writeReg g v s = { s with done := d, err := e, errCode := c }) :
    runTurns [wrEvent s.cfg g v, .engine] s = .next { t with err := e, errCode := c, resp := .writeDone } := by
  rw [runTurns_wrEvent hr, hwrite, runTurns_singleton]
  refine (engineTurn_of_pending (i := i) ?_ ?_).trans (exec_of_status_fields hwf he d e c .writeDone)
  · exact hr
  · exact hp

/-- Settles O53: before the completion a write finds BUSY 1, and reaches DONE and the error record at most; after it, the write
finds the state that the completion left, with DONE 1 and the error record as it was. -/
theorem sameCycleEitherOrder : Obligations.SameCycleEitherOrder := by
  rintro s t i g v ⟨hbusy, -, -, -⟩ hlegal hr hp he
  have hwf := (hlegal i hp).1
  obtain ⟨hdone : t.done = true, herr : t.err = s.err, hcode : t.errCode = s.errCode, -, -⟩ := exec_keepsStatus hwf he
  have hafter (g : Reg) := runTurns_engine_write g v hr hp hwf he
  refine ⟨fun hg => ⟨?dropped, hafter g, (exec_lifecycle hwf he).busy⟩, fun hv => ⟨?statusFirst, ?statusAfter⟩⟩
  case dropped =>
    have hb : s.busy = true := by simp [hbusy, hp]
    exact runTurns_write_engine hr hp hwf he ((writeReg_dropped hb hg).trans (raiseError_eq .busy s))
  case statusFirst =>
    refine (runTurns_write_engine (g := .status) hr hp hwf he (writeStatus_eq v s)).trans ?_
    rw [hdone]
  case statusAfter =>
    refine (hafter .status).trans ?_
    rw [writeReg, writeStatus_eq, hv, herr, hcode, Bool.not_true, Bool.and_false]

end Sys2Proof.Machine
end

section
/-! SUPPORT. Decoding the bytes of a word (20_memory.md R48), and the word placed for the next step (log entry 4). -/

namespace Sys2Proof

/-- The first four bytes are the word they are the lanes of, and the bytes after them are left (R48, R65). -/
theorem decodeBytes_wordBytes (w : Word) (rest : List Byte) :
    decodeBytes (wordBytes w ++ rest) = .word (decode w) rest := by
  simp only [wordBytes, List.cons_append, List.nil_append, decodeBytes, wordOfBytes_byteLane]

theorem decodeTableWord_eq_some {nbits w : Nat} {i : Instr} (h : decodeTableWord nbits w = some i) :
    decode (tableWord nbits w) = .command i := by
  have hbytes := decodeBytes_wordBytes (tableWord nbits w) []
  rw [List.append_nil] at hbytes
  rw [decodeTableWord, hbytes] at h
  cases hd : decode (tableWord nbits w) with
  | command j => rw [hd] at h; cases h; rfl
  | illegalCmd | badRound => rw [hd] at h; cases h

end Sys2Proof

namespace Sys2Proof.Machine

variable {w : Word} {i : Instr}

/-- Settles O2: the command's own word decodes to it, and so do the four byte lanes of that word. -/
theorem decodeOfEncodeIsTheCommand : Obligations.DecodeOfEncodeIsTheCommand := fun i rest hwf =>
  ⟨decode_encode hwf, by rw [decodeBytes_wordBytes, decode_encode hwf]⟩

theorem placeWord_of_command (h : decode w = .command i) (s : State) :
    placeWord w s = { accept i s with resetLine := false, agenda := engineFirst s.agenda } := by
  simp only [placeWord, h]

/-- Whether or not turns are still to come, the engine's turn put first is the next step, and leaves them as they were. -/
theorem step_engineFirst (s : State) : step { s with agenda := engineFirst s.agenda } = engineTurn s := by
  cases ha : s.agenda with
  | nil => exact (step_of_agenda_nil rfl).trans (by rw [engineFirst, ← ha])
  | cons e es => exact (step_of_agenda_cons rfl).trans (by rw [turn, ← ha])

/-- The engine moves next on a placed command, which is pending outside reset. -/
theorem step_placeWord (h : decode w = .command i) (s : State) :
    step (placeWord w s) = exec i { accept i s with resetLine := false } := by
  rw [placeWord_of_command h]
  exact (step_engineFirst { accept i s with resetLine := false }).trans (engineTurn_of_pending rfl rfl)

/-- Settles O34: a table word is decoded from its bytes, and placed as the command it decodes to. -/
theorem placedWordRunsNext : Obligations.PlacedWordRunsNext := fun s _ _ _ h =>
  step_placeWord (decodeTableWord_eq_some h) s

/-- Settles O38: both invariants of the reset values. -/
theorem invariantsHoldAtReset : Obligations.InvariantsHoldAtReset := fun c => ⟨resetWith_inv c, resetWith_engineInv c⟩

end Sys2Proof.Machine
end

section
/-! SUPPORT. The build parameters along a step (70_reset_and_hazards.md R193). -/

namespace Sys2Proof.Machine

variable {s t : State}

theorem releaseReset_cfg (s : State) : (releaseReset s).cfg = s.cfg := by
  unfold releaseReset
  split <;> rfl

theorem writeReg_cfg (g : Reg) (v : Word) (s : State) : (writeReg g v s).cfg = s.cfg := by
  rcases writeReg_lifecycle g v s with hlife | ⟨i, -, -, haccept⟩
  · exact hlife.cfg
  · rw [haccept, accept_cfg]

theorem exec_cfg {i : Instr} (h : exec i s = .next t) : t.cfg = s.cfg := by
  rcases exec_cases h with ⟨-, rfl⟩ | ⟨-, rfl⟩ | ⟨-, rfl⟩ | ⟨-, -, -, -, D, rfl⟩ | ⟨-, rfl⟩
  · rfl
  · rfl
  · rfl
  · rfl
  · exact raiseError_cfg .badRound s

/-- While the reset input is asserted every access is answered, by zero read data or by a write that is done, and every piece
of state is held at its reset value (R190, R192). -/
theorem accessInReset_eq (a : Access) (s : State) :
    ∃ r : BusResp, (r = .readData 0 ∨ r = .writeDone) ∧ accessInReset a s = { holdReset s with resp := r } := by
  unfold accessInReset
  cases a.dir with
  | read => exact ⟨_, .inl rfl, rfl⟩
  | write v => exact ⟨_, .inr rfl, rfl⟩

theorem hostAccess_cfg {a : Access} (h : hostAccess a s = .next t) : t.cfg = s.cfg := by
  rcases (hostAccess_cases h).2 with ⟨-, rfl⟩ | ⟨-, r, rfl⟩ | ⟨-, g, v, -, rfl⟩
  · obtain ⟨r, -, hheld⟩ := accessInReset_eq a s
    rw [hheld]
    rfl
  · rfl
  · exact writeReg_cfg g v s

theorem engineTurn_cfg (h : engineTurn s = .next t) : t.cfg = s.cfg := by
  rcases engineTurn_cases h with ⟨-, rfl⟩ | ⟨-, -, rfl⟩ | ⟨-, i, -, hi⟩
  · rfl
  · rfl
  · exact exec_cfg hi

theorem turn_cfg {e : Event} (h : turn e s = .next t) : t.cfg = s.cfg := by
  cases e with
  | access a => exact hostAccess_cfg h
  | engine => exact engineTurn_cfg h
  | resetAssert => cases h; rfl
  | resetRelease => cases h; exact releaseReset_cfg s

/-- Settles O56: no turn changes the parameters, and a step takes one turn. -/
theorem noStepChangesTheParameters : Obligations.NoStepChangesTheParameters := by
  intro s t h
  rcases step_cases h with ⟨-, hturn⟩ | ⟨e, es, -, hturn⟩
  · exact turn_cfg hturn
  · exact turn_cfg (s := { s with agenda := es }) hturn

end Sys2Proof.Machine
end

section
/-! SUPPORT. Turns while the reset input is asserted (70_reset_and_hazards.md R190 to R192; log entries 10 and 12). -/

namespace Sys2Proof.Machine

variable {s : State}

theorem hostAccess_inReset {a : Access} (hr : s.resetLine = true) (hw : a.inWindow s.cfg) :
    hostAccess a s = .next (accessInReset a s) := by
  rw [hostAccess, if_pos hw, if_pos hr]

/-- Settles O55: the answer carries zero and is no bus error, and no reset value raises the interrupt. -/
theorem accessesDuringResetAreIgnored : Obligations.AccessesDuringResetAreIgnored := by
  intro s a hr hw
  obtain ⟨r, hanswer, hheld⟩ := accessInReset_eq a s
  refine ⟨{ holdReset s with resp := r }, (hostAccess_inReset hr hw).trans (congrArg _ hheld), ?_, ?_, rfl, rfl⟩
  · rcases hanswer with rfl | rfl <;> rfl
  · rcases hanswer with rfl | rfl <;> simp

theorem runTurns_cons {e : Event} {t : State} (h : turn e s = .next t) (es : List Event) :
    runTurns (e :: es) s = runTurns es t := by
  rw [runTurns, h, andThen]

/-- Every turn but the release of the line leaves the reset values, and records at most an answer. -/
theorem turn_holdReset {e : Event} (he : e = .engine ∨ e = .resetAssert ∨ ∃ a : Access, e = .access a ∧ a.inWindow s.cfg)
    (r : BusResp) :
    ∃ r', turn e { holdReset s with resp := r } = .next { holdReset s with resp := r' } := by
  rcases he with rfl | rfl | ⟨a, rfl, hw⟩
  · exact ⟨_, rfl⟩
  · exact ⟨_, rfl⟩
  · obtain ⟨r', -, hheld⟩ := accessInReset_eq a { holdReset s with resp := r }
    exact ⟨r', (hostAccess_inReset (s := { holdReset s with resp := r }) rfl hw).trans (congrArg _ hheld)⟩

/-- Any number of those turns, and then the release of the line: what was answered meanwhile is forgotten. -/
theorem runTurns_holdReset_release {es : List Event}
    (hes : ∀ e ∈ es, e = .engine ∨ e = .resetAssert ∨ ∃ a : Access, e = .access a ∧ a.inWindow s.cfg) (r : BusResp) :
    runTurns (es ++ [.resetRelease]) { holdReset s with resp := r } =
      .next { State.resetWith s.cfg with agenda := s.agenda } := by
  induction es generalizing r with
  | nil => rfl
  | cons e es ih =>
    obtain ⟨hhead, htail⟩ := List.forall_mem_cons.1 hes
    obtain ⟨r', hturn⟩ := turn_holdReset hhead r
    exact (runTurns_cons hturn _).trans (ih htail r')

/-- Settles O54: the assertion gives the reset values, whatever was pending; the turns after it hold them until the release. -/
theorem resetAbortsEverything : Obligations.ResetAbortsEverything := fun _ _ hes =>
  runTurns_holdReset_release hes .idle

end Sys2Proof.Machine
end

section
/-! SUPPORT. The lock that a KEY write puts on the round keys (70_reset_and_hazards.md R203, 10_state.md R22). -/

namespace Sys2Proof.Machine

/-- Settles O57: the write clears KEY_VALID and leaves RK alone, so a keyed word finds no valid key. -/
theorem keyWriteLocksTheRoundKeys : Obligations.KeyWriteLocksTheRoundKeys := by
  intro s t w v x i hr hb h hd hkey
  rw [hostAccess_writeOf hr, writeReg_key_of_idle hb] at h
  cases h
  exact ⟨rfl, rfl, submit_of_noKey hb hd hkey rfl⟩

end Sys2Proof.Machine
end

section
/-! SUPPORT. The safe handshake (70_reset_and_hazards.md R202): the two writes, then STATUS reads and engine turns in any
order. -/

namespace Sys2Proof.Machine

variable {s t : State} {i : Instr} {es : List Event}

/-- Acceptance writes PENDING, BUSY and DONE, and the completion of a format CR command writes all three again. -/
theorem completeRound_accept {rnd : BitVec 4} {f : Fin 10 → State → State} (hok : roundOk rnd)
    (hf : ∀ r, retire (f r (accept i s)) = retire (f r s)) :
    completeRound rnd f (accept i s) = completeRound rnd f s := by
  obtain ⟨r, rfl⟩ := rndOf_of_roundOk hok
  rw [completeRound_rndOf, completeRound_rndOf, hf]

/-- The completion of a well-formed command reads nothing that its acceptance writes (R160, R161). -/
theorem exec_accept (hwf : i.wf = true) (s : State) : exec i (accept i s) = exec i s := by
  cases i with
  | nop | expandKey | encrypt | decrypt | zeroize => rfl
  | perm r | invPerm r | mix r | invMix r | diff r | invDiff r | roundFwd r | roundInv r =>
    exact completeRound_accept (of_decide_eq_true hwf) fun _ => rfl

/-- A completion passes the response on as it is. -/
theorem exec_of_resp (hwf : i.wf = true) (he : exec i s = .next t) (r : BusResp) :
    exec i { s with resp := r } = .next { t with resp := r } := by
  obtain ⟨-, herr : t.err = s.err, hcode : t.errCode = s.errCode, -, -⟩ := exec_keepsStatus hwf he
  refine (exec_of_status_fields hwf he s.done s.err s.errCode r).trans ?_
  rw [← herr, ← hcode]

/-- A STATUS read changes the response only, whatever the last one was (R44). -/
theorem turn_readStatus (hr : s.resetLine = false) (r : BusResp) :
    turn (rdEvent s.cfg .status) { s with resp := r } = .next { s with resp := .readData (statusWord s) } :=
  hostAccess_readOf (g := .status) (s := { s with resp := r }) hr

/-- With nothing pending, STATUS reads and engine turns change only the response. -/
theorem runTurns_polls_of_idle (hr : s.resetLine = false) (hp : s.pending = none)
    (hes : ∀ e ∈ es, e = .engine ∨ e = rdEvent s.cfg .status) (r : BusResp) :
    ∃ r', runTurns es { s with resp := r } = .next { s with resp := r' } := by
  induction es generalizing r with
  | nil => exact ⟨r, rfl⟩
  | cons e es ih =>
    obtain ⟨hhead, htail⟩ := List.forall_mem_cons.1 hes
    obtain ⟨r', hturn⟩ : ∃ r', turn e { s with resp := r } = .next { s with resp := r' } := by
      rcases hhead with rfl | rfl
      · exact ⟨r, engineTurn_of_idle hr hp⟩
      · exact ⟨_, turn_readStatus hr r⟩
    rw [runTurns_cons hturn]
    exact ih htail r'

/-- With a command pending, the first engine turn among them completes it; before that, only the response changes. -/
theorem runTurns_polls_of_pending (hr : s.resetLine = false) (hp : s.pending = some i) (hwf : i.wf = true)
    (he : exec i s = .next t) (hes : ∀ e ∈ es, e = .engine ∨ e = rdEvent s.cfg .status) (r : BusResp) :
    ∃ r', runTurns es { s with resp := r } = .next { (if .engine ∈ es then t else s) with resp := r' } := by
  induction es generalizing r with
  | nil => exact ⟨r, rfl⟩
  | cons e es ih =>
    obtain ⟨hhead, htail⟩ := List.forall_mem_cons.1 hes
    rcases hhead with rfl | rfl
    · have hturn : turn .engine { s with resp := r } = .next { t with resp := r } :=
        (engineTurn_of_pending (s := { s with resp := r }) hr hp).trans (exec_of_resp hwf he r)
      have hlife := exec_lifecycle hwf he
      have hcfg : t.cfg = s.cfg := hlife.cfg
      rw [if_pos List.mem_cons_self, runTurns_cons hturn]
      exact runTurns_polls_of_idle (hlife.resetLine.trans hr) hlife.pending (hcfg ▸ htail) r
    · have hread : Event.engine ∈ rdEvent s.cfg .status :: es ↔ .engine ∈ es := by simp [rdEvent]
      rw [runTurns_cons (turn_readStatus hr r)]
      simp only [hread]
      exact ih htail _

/-- The two writes of the handshake: the word is submitted to a CORE with DONE, ERR and ERR_CODE cleared. -/
theorem runTurns_clr_cmd (hr : s.resetLine = false) (hb : s.busy = false) (w : Word) (es : List Event) :
    runTurns (HostLine.expand s.cfg .clr ++ wrEvent s.cfg .cmd w :: es) s =
      runTurns es { submit w { ackErr (ackDone s) with resp := .writeDone } with resp := .writeDone } := by
  refine (runTurns_wrEvent hr .status 0x0000000C _).trans ?_
  refine (runTurns_wrEvent (s := { ackErr (ackDone s) with resp := .writeDone }) hr .cmd w es).trans ?_
  rw [writeReg, unlessBusy_of_idle]
  exact hb

/-- Settles O60: after the two writes the word is either rejected, with nothing pending, or accepted and pending, and the turns
that follow change only the response or complete it. -/
theorem safeHandshake : Obligations.SafeHandshake := by
  rintro s w es ⟨hpending, -, -, -⟩ hb hr hes
  rw [runTurns_clr_cmd hr hb]
  rcases submit_cases w { ackErr (ackDone s) with resp := .writeDone } with
    ⟨c, hcheck, hsubmit, -⟩ | ⟨i, hcheck, hsubmit, -, hd, -⟩ <;> rw [hsubmit]
  case inl =>
    have hp : s.pending = none := by simpa [hb] using hpending
    rw [raiseError_of_not_err rfl]
    obtain ⟨r, hrun⟩ := runTurns_polls_of_idle (es := es)
      (s := { ackErr (ackDone s) with err := true, errCode := c.code }) hr hp hes .writeDone
    exact ⟨_, hrun, fun _ => ⟨c, hcheck, rfl, rfl, hb, rfl⟩, by simp, by simp, by simp⟩
  case inr =>
    have hwf := (decode_eq_command_iff.1 hd).1
    obtain ⟨t, he⟩ := exec_next i s
    have hdone : t.done = true := (exec_keepsStatus hwf he).done
    have he' : exec i (accept i (ackErr (ackDone s))) = .next { t with err := false, errCode := 0, resp := s.resp } :=
      (exec_accept hwf _).trans (exec_of_status_fields hwf he false false 0 s.resp)
    obtain ⟨r, hrun⟩ := runTurns_polls_of_pending (es := es) (s := accept i (ackErr (ackDone s))) hr rfl hwf he' hes .writeDone
    refine ⟨_, hrun, ?_⟩
    by_cases hengine : .engine ∈ es
    · simp only [if_pos hengine]
      exact ⟨by simp, fun _ _ => ⟨i, t, hcheck, he, rfl, rfl, rfl⟩, by simp [hdone], fun _ => .inr hdone⟩
    · simp only [if_neg hengine]
      exact ⟨by simp, by simp, fun _ _ => rfl, (absurd · hengine)⟩

end Sys2Proof.Machine
end
